-- ==== Sys2Proof/Word.lean ====
section
/-! DEFINITION. The plain data types of the block: bytes, bus addresses, transaction words, byte strings, and the names of
the bus operations and of the five clock registers. -/

namespace Sys2Proof

/-- The data of one access (00 R8). -/
abbrev Byte := BitVec 8

/-- A bus address (00 R8). -/
abbrev Addr := BitVec 16

/-- A transaction word `T[25:0]` (30 R64). -/
abbrev TWord := BitVec 26

/-- A signed 64-bit count of seconds: a draw of the Time Source, or RTC_ZERO_INIT (00 R7, 60 R161). Its value is `toInt`. -/
abbrev Seconds := BitVec 64

/-- The four bus operations (30 R63, R65). -/
inductive BusOp where
  | rdProg
  | rdSave
  | wrCtrl
  | wrSave
  deriving DecidableEq, Repr

/-- The five clock registers `RTC[0..4]`, in index order (10 R31). -/
inductive RtcReg where
  | seconds
  | minutes
  | hours
  | dayLow
  | flags
  deriving DecidableEq, Repr

/-- A byte string as plain data: its length, and the bytes that are not 0x00 with their offsets. DESIGN CHOICE (log 6),
safe: every byte string has exactly one such form with rising offsets below the length and no 0x00 listed. -/
structure ByteString where
  len   : Nat
  cells : List Host.Cell
  deriving DecidableEq, Repr

end Sys2Proof
end

