-- ==== Sys2Proof/Config.lean ====
section
/-! DEFINITION. What a device is fixed by (00 R7), what the host answers about the save file, and the one free value: the
Time Source's draws. -/

namespace Sys2Proof

/-- The three variants (00 R2). -/
inductive Variant where
  | a
  | b
  | c
  deriving DecidableEq, Repr

/-- One row of TYPE_TABLE (44 R124). -/
structure CartridgeKind where
  variant      : Variant
  usesSizeByte : Bool
  battery      : Bool
  clockCapable : Bool
  deriving DecidableEq, Repr

/-- The configuration of a device, decided once at LOAD and never changed (00 R7). `save_location` is present iff
`battery` (44 R127), so it has no field of its own. -/
structure Configuration where
  variant      : Variant
  rom          : ByteString
  sramSize     : Nat
  battery      : Bool
  clockCapable : Bool
  deriving DecidableEq, Repr

/-- What the host has at the save location when LOAD reads it (44 R123, R135): no file, its bytes, or a file that cannot
be read. -/
inductive SaveFile where
  | absent
  | bytes (b : ByteString)
  | unreadable
  deriving DecidableEq, Repr

/-- The host's answer when FLUSH hands it the save image (44 R140). -/
inductive HostWrite where
  | stored
  | failed
  deriving DecidableEq, Repr

/-- FREE VALUE (log 7): draw number `n` of the Time Source where the environment has fixed none. Any signed 64-bit value,
under no law (92 D17, 93 U9); it has no body, so nothing can be proved of it. -/
opaque Config.timeDraw : Nat → Seconds

end Sys2Proof
end

