-- ==== Sys2Proof/Syntax.lean ====
section
/-! DEFINITION. The operations: one constructor per row of spec/opcode_table.json, in the table's order. -/

namespace Sys2Proof

/-- The 22 decoded forms of a bus transaction (30 R67) and the two host operations (30 R63, R74). A form carries the whole
16-bit address of its word; a read carries no data, because `T[7:0]` is ignored there (30 R66). -/
inductive Instr where
  /-- A.RD_ROM (40 R77). -/
  | aRdRom (addr : Addr)
  /-- A.RD_SAVE (40 R78). -/
  | aRdSave (addr : Addr)
  /-- A.WR_CTRL (40 R79). -/
  | aWrCtrl (addr : Addr) (value : Byte)
  /-- A.WR_SAVE (40 R80). -/
  | aWrSave (addr : Addr) (value : Byte)
  /-- B.RD_ROM0 (41 R82). -/
  | bRdRom0 (addr : Addr)
  /-- B.RD_ROMX (41 R83). -/
  | bRdRomX (addr : Addr)
  /-- B.RD_SAVE (41 R85). -/
  | bRdSave (addr : Addr)
  /-- B.WR_RAMEN (41 R86). -/
  | bWrRamEn (addr : Addr) (value : Byte)
  /-- B.WR_ROMLO (41 R87). -/
  | bWrRomLo (addr : Addr) (value : Byte)
  /-- B.WR_BANKHI (41 R88). -/
  | bWrBankHi (addr : Addr) (value : Byte)
  /-- B.WR_MODE (41 R89). -/
  | bWrMode (addr : Addr) (value : Byte)
  /-- B.WR_SAVE (41 R90). -/
  | bWrSave (addr : Addr) (value : Byte)
  /-- C.RD_ROM0 (42 R93). -/
  | cRdRom0 (addr : Addr)
  /-- C.RD_ROMX (42 R94). -/
  | cRdRomX (addr : Addr)
  /-- C.RD_SAVE (42 R96). -/
  | cRdSave (addr : Addr)
  /-- C.WR_RAMEN (42 R97). -/
  | cWrRamEn (addr : Addr) (value : Byte)
  /-- C.WR_ROMB (42 R98). -/
  | cWrRomB (addr : Addr) (value : Byte)
  /-- C.WR_RAMB (42 R99). -/
  | cWrRamB (addr : Addr) (value : Byte)
  /-- C.WR_LATCH (43 R113). -/
  | cWrLatch (addr : Addr) (value : Byte)
  /-- C.WR_SAVE (42 R100). -/
  | cWrSave (addr : Addr) (value : Byte)
  /-- X.RD_PROG_OOW (60 R149). -/
  | xRdProgOow (addr : Addr)
  /-- X.WR_CTRL_UNMAPPED (60 R149). -/
  | xWrCtrlUnmapped (addr : Addr) (value : Byte)
  /-- LOAD (44 R123): the image, what the host has at the save location, and RTC_ZERO_INIT. -/
  | load (image : ByteString) (save : SaveFile) (rtcZeroInit : Seconds)
  /-- FLUSH (44 R136): the operand is the host's answer to the write (44 R140; log 8). -/
  | flush (answer : HostWrite)
  deriving DecidableEq, Repr

end Sys2Proof
end

