-- ==== Sys2Proof/WellFormed.lean ====
section
/-! DEFINITION. Which operations stand for something: an address in the range that the form's row of 30 R67 gives, and byte
strings in their canonical form. -/

namespace Sys2Proof

/-- The canonical form of a list of cells: offsets strictly rising and no 0x00 listed. -/
def cellsWf : List Host.Cell → Bool
  | [] => true
  | c :: rest => c.2 != 0 && rest.all (fun d => decide (c.1 < d.1)) && cellsWf rest

/-- A byte string's cells are canonical and lie below its length. -/
def ByteString.wf (b : ByteString) : Bool :=
  cellsWf b.cells && b.cells.all (fun c => decide (c.1 < b.len))

/-- The save file's bytes, if any, are a byte string in its canonical form. -/
def SaveFile.wf : SaveFile → Bool
  | .absent => true
  | .bytes b => b.wf
  | .unreadable => true

/-- The address lies in the range `lo` to `hi`, both included. -/
def Addr.inRange (lo hi : Nat) (a : Addr) : Bool :=
  decide (lo ≤ a.toNat) && decide (a.toNat ≤ hi)

/-- The `addr` column of 30 R67, form by form; for LOAD, that its operands denote byte strings. -/
def Instr.wellFormed : Instr → Bool
  | .aRdRom a => Addr.inRange 0x0000 0x7FFF a
  | .aRdSave _ => true
  | .aWrCtrl a _ => Addr.inRange 0x0000 0x7FFF a
  | .aWrSave _ _ => true
  | .bRdRom0 a => Addr.inRange 0x0000 0x3FFF a
  | .bRdRomX a => Addr.inRange 0x4000 0x7FFF a
  | .bRdSave _ => true
  | .bWrRamEn a _ => Addr.inRange 0x0000 0x1FFF a
  | .bWrRomLo a _ => Addr.inRange 0x2000 0x3FFF a
  | .bWrBankHi a _ => Addr.inRange 0x4000 0x5FFF a
  | .bWrMode a _ => Addr.inRange 0x6000 0x7FFF a
  | .bWrSave _ _ => true
  | .cRdRom0 a => Addr.inRange 0x0000 0x3FFF a
  | .cRdRomX a => Addr.inRange 0x4000 0x7FFF a
  | .cRdSave _ => true
  | .cWrRamEn a _ => Addr.inRange 0x0000 0x1FFF a
  | .cWrRomB a _ => Addr.inRange 0x2000 0x3FFF a
  | .cWrRamB a _ => Addr.inRange 0x4000 0x5FFF a
  | .cWrLatch a _ => Addr.inRange 0x6000 0x7FFF a
  | .cWrSave _ _ => true
  | .xRdProgOow a => Addr.inRange 0x8000 0xFFFF a
  | .xWrCtrlUnmapped a _ => Addr.inRange 0x8000 0xFFFF a
  | .load image save _ => image.wf && save.wf
  | .flush _ => true

end Sys2Proof
end

