-- ==== Sys2Proof/Decode.lean ====
section
/-! DEFINITION. The decoder of transaction words (30 R64 to R70), the encoder, the opcode table's patterns and the
pseudo-operations of 30 R73. -/

namespace Sys2Proof

/-- `op`, bits 25:24 of the word (30 R64, R65). -/
def wordOp (w : TWord) : BusOp :=
  match (w.extractLsb' 24 2).toNat with
  | 0 => .rdProg
  | 1 => .rdSave
  | 2 => .wrCtrl
  | _ => .wrSave

/-- `addr`, bits 23:8 of the word (30 R64). -/
def wordAddr (w : TWord) : Addr := w.extractLsb' 8 16

/-- `data`, bits 7:0 of the word (30 R64). -/
def wordData (w : TWord) : Byte := w.extractLsb' 0 8

/-- The `op` field of a bus operation (30 R65). -/
def opBits : BusOp → BitVec 2
  | .rdProg => 0b00#2
  | .rdSave => 0b01#2
  | .wrCtrl => 0b10#2
  | .wrSave => 0b11#2

/-- The word of a bus operation (30 R64). -/
def busWord (op : BusOp) (addr : Addr) (data : Byte) : TWord := opBits op ++ addr ++ data

/-- `addr[15:13]`, which selects the control window (20 R50, 30 R67). -/
def ctrlWindow (a : Addr) : Nat := (a.extractLsb' 13 3).toNat

/-- The forms of Variant A (30 R67). -/
def decodeA (w : TWord) : Instr :=
  match wordOp w with
  | .rdProg => if ctrlWindow (wordAddr w) < 4 then .aRdRom (wordAddr w) else .xRdProgOow (wordAddr w)
  | .rdSave => .aRdSave (wordAddr w)
  | .wrCtrl =>
    if ctrlWindow (wordAddr w) < 4 then .aWrCtrl (wordAddr w) (wordData w)
    else .xWrCtrlUnmapped (wordAddr w) (wordData w)
  | .wrSave => .aWrSave (wordAddr w) (wordData w)

/-- The forms of Variant B (30 R67). -/
def decodeB (w : TWord) : Instr :=
  match wordOp w with
  | .rdProg =>
    if ctrlWindow (wordAddr w) < 2 then .bRdRom0 (wordAddr w)
    else if ctrlWindow (wordAddr w) < 4 then .bRdRomX (wordAddr w)
    else .xRdProgOow (wordAddr w)
  | .rdSave => .bRdSave (wordAddr w)
  | .wrCtrl =>
    match ctrlWindow (wordAddr w) with
    | 0 => .bWrRamEn (wordAddr w) (wordData w)
    | 1 => .bWrRomLo (wordAddr w) (wordData w)
    | 2 => .bWrBankHi (wordAddr w) (wordData w)
    | 3 => .bWrMode (wordAddr w) (wordData w)
    | _ => .xWrCtrlUnmapped (wordAddr w) (wordData w)
  | .wrSave => .bWrSave (wordAddr w) (wordData w)

/-- The forms of Variant C (30 R67). -/
def decodeC (w : TWord) : Instr :=
  match wordOp w with
  | .rdProg =>
    if ctrlWindow (wordAddr w) < 2 then .cRdRom0 (wordAddr w)
    else if ctrlWindow (wordAddr w) < 4 then .cRdRomX (wordAddr w)
    else .xRdProgOow (wordAddr w)
  | .rdSave => .cRdSave (wordAddr w)
  | .wrCtrl =>
    match ctrlWindow (wordAddr w) with
    | 0 => .cWrRamEn (wordAddr w) (wordData w)
    | 1 => .cWrRomB (wordAddr w) (wordData w)
    | 2 => .cWrRamB (wordAddr w) (wordData w)
    | 3 => .cWrLatch (wordAddr w) (wordData w)
    | _ => .xWrCtrlUnmapped (wordAddr w) (wordData w)
  | .wrSave => .cWrSave (wordAddr w) (wordData w)

/-- The decoder: total, because every word is a form of every variant (30 R67, R76). -/
def decode (v : Variant) (w : TWord) : Instr :=
  match v with
  | .a => decodeA w
  | .b => decodeB w
  | .c => decodeC w

/-- The encoder. A read's data field is 0 (30 R66); a host operation has no word (30 R74). -/
def encode : Instr → Option TWord
  | .aRdRom a => some (busWord .rdProg a 0)
  | .aRdSave a => some (busWord .rdSave a 0)
  | .aWrCtrl a d => some (busWord .wrCtrl a d)
  | .aWrSave a d => some (busWord .wrSave a d)
  | .bRdRom0 a => some (busWord .rdProg a 0)
  | .bRdRomX a => some (busWord .rdProg a 0)
  | .bRdSave a => some (busWord .rdSave a 0)
  | .bWrRamEn a d => some (busWord .wrCtrl a d)
  | .bWrRomLo a d => some (busWord .wrCtrl a d)
  | .bWrBankHi a d => some (busWord .wrCtrl a d)
  | .bWrMode a d => some (busWord .wrCtrl a d)
  | .bWrSave a d => some (busWord .wrSave a d)
  | .cRdRom0 a => some (busWord .rdProg a 0)
  | .cRdRomX a => some (busWord .rdProg a 0)
  | .cRdSave a => some (busWord .rdSave a 0)
  | .cWrRamEn a d => some (busWord .wrCtrl a d)
  | .cWrRomB a d => some (busWord .wrCtrl a d)
  | .cWrRamB a d => some (busWord .wrCtrl a d)
  | .cWrLatch a d => some (busWord .wrCtrl a d)
  | .cWrSave a d => some (busWord .wrSave a d)
  | .xRdProgOow a => some (busWord .rdProg a 0)
  | .xWrCtrlUnmapped a d => some (busWord .wrCtrl a d)
  | .load _ _ _ => none
  | .flush _ => none

/-- The `variant` column of 30 R67: whether a device of the variant has the form. The host operations are of every
variant (30 R63). -/
def Instr.inVariant (v : Variant) : Instr → Bool
  | .aRdRom _ => v == .a
  | .aRdSave _ => v == .a
  | .aWrCtrl _ _ => v == .a
  | .aWrSave _ _ => v == .a
  | .bRdRom0 _ => v == .b
  | .bRdRomX _ => v == .b
  | .bRdSave _ => v == .b
  | .bWrRamEn _ _ => v == .b
  | .bWrRomLo _ _ => v == .b
  | .bWrBankHi _ _ => v == .b
  | .bWrMode _ _ => v == .b
  | .bWrSave _ _ => v == .b
  | .cRdRom0 _ => v == .c
  | .cRdRomX _ => v == .c
  | .cRdSave _ => v == .c
  | .cWrRamEn _ _ => v == .c
  | .cWrRomB _ _ => v == .c
  | .cWrRamB _ _ => v == .c
  | .cWrLatch _ _ => v == .c
  | .cWrSave _ _ => v == .c
  | .xRdProgOow _ => true
  | .xWrCtrlUnmapped _ _ => true
  | .load _ _ _ => true
  | .flush _ => true

/-- The place of a form's row in spec/opcode_table.json, counted from 0. -/
def Instr.tableRow : Instr → Nat
  | .aRdRom _ => 0
  | .aRdSave _ => 1
  | .aWrCtrl _ _ => 2
  | .aWrSave _ _ => 3
  | .bRdRom0 _ => 4
  | .bRdRomX _ => 5
  | .bRdSave _ => 6
  | .bWrRamEn _ _ => 7
  | .bWrRomLo _ _ => 8
  | .bWrBankHi _ _ => 9
  | .bWrMode _ _ => 10
  | .bWrSave _ _ => 11
  | .cRdRom0 _ => 12
  | .cRdRomX _ => 13
  | .cRdSave _ => 14
  | .cWrRamEn _ _ => 15
  | .cWrRomB _ _ => 16
  | .cWrRamB _ _ => 17
  | .cWrLatch _ _ => 18
  | .cWrSave _ _ => 19
  | .xRdProgOow _ => 20
  | .xWrCtrlUnmapped _ _ => 21
  | .load _ _ _ => 22
  | .flush _ => 23

/-- The `match` and `mask` of row `n` of spec/opcode_table.json, and the variants it serves; none for the two host rows and
past the table's end. -/
def tablePattern : Nat → Option (List Variant × TWord × TWord)
  | 0 => some ([.a], 0x0000000#26, 0x3800000#26)
  | 1 => some ([.a], 0x1000000#26, 0x3000000#26)
  | 2 => some ([.a], 0x2000000#26, 0x3800000#26)
  | 3 => some ([.a], 0x3000000#26, 0x3000000#26)
  | 4 => some ([.b], 0x0000000#26, 0x3C00000#26)
  | 5 => some ([.b], 0x0400000#26, 0x3C00000#26)
  | 6 => some ([.b], 0x1000000#26, 0x3000000#26)
  | 7 => some ([.b], 0x2000000#26, 0x3E00000#26)
  | 8 => some ([.b], 0x2200000#26, 0x3E00000#26)
  | 9 => some ([.b], 0x2400000#26, 0x3E00000#26)
  | 10 => some ([.b], 0x2600000#26, 0x3E00000#26)
  | 11 => some ([.b], 0x3000000#26, 0x3000000#26)
  | 12 => some ([.c], 0x0000000#26, 0x3C00000#26)
  | 13 => some ([.c], 0x0400000#26, 0x3C00000#26)
  | 14 => some ([.c], 0x1000000#26, 0x3000000#26)
  | 15 => some ([.c], 0x2000000#26, 0x3E00000#26)
  | 16 => some ([.c], 0x2200000#26, 0x3E00000#26)
  | 17 => some ([.c], 0x2400000#26, 0x3E00000#26)
  | 18 => some ([.c], 0x2600000#26, 0x3E00000#26)
  | 19 => some ([.c], 0x3000000#26, 0x3000000#26)
  | 20 => some ([.a, .b, .c], 0x0800000#26, 0x3800000#26)
  | 21 => some ([.a, .b, .c], 0x2800000#26, 0x3800000#26)
  | _ => none

/-- Row `n` serves the variant and its pattern matches the word. -/
def rowMatches (v : Variant) (w : TWord) (n : Nat) : Bool :=
  match tablePattern n with
  | some (variants, pattern, mask) => variants.contains v && (w &&& mask == pattern)
  | none => false

/-- The variant under which `decodeTableWord` reads a word. A word alone does not say which form it is (30 R67, R75), and
the opcode table's numbering has no bits for the variant. DESIGN CHOICE (log 3). -/
def tableVariant : Variant := .c

/-- The word whose low `nbits` bits are those of `w`; a transaction word has 26 bits (30 R64), so a number with a bit above
bit 25 is no word. -/
def tableWord (nbits w : Nat) : Option TWord :=
  if w % 2 ^ nbits < 2 ^ 26 then some (BitVec.ofNat 26 (w % 2 ^ nbits)) else none

/-- The operation the decoder reads from the bits `w`, under `tableVariant`. -/
def decodeTableWord (nbits w : Nat) : Option Instr := (tableWord nbits w).map (decode tableVariant)

/-- `RAM_ON` (30 R73). -/
def pseudoRamOn : List TWord := [busWord .wrCtrl 0x0000 0x0A]

/-- `RAM_OFF` (30 R73). -/
def pseudoRamOff : List TWord := [busWord .wrCtrl 0x0000 0x00]

/-- `ROMB n` of Variant B (30 R73). -/
def pseudoRomBB (n : Byte) : List TWord := [busWord .wrCtrl 0x2000 (n &&& 0x1F)]

/-- `ROMB n` of Variant C (30 R73). -/
def pseudoRomBC (n : Byte) : List TWord := [busWord .wrCtrl 0x2000 (n &&& 0x7F)]

/-- `BANKHI n` of Variant B (30 R73). -/
def pseudoBankHi (n : Byte) : List TWord := [busWord .wrCtrl 0x4000 (n &&& 0x03)]

/-- `MODE m` of Variant B (30 R73). -/
def pseudoMode (m : Byte) : List TWord := [busWord .wrCtrl 0x6000 (m &&& 0x01)]

/-- `RAMB n` of Variant C (30 R73). -/
def pseudoRamB (n : Byte) : List TWord := [busWord .wrCtrl 0x4000 n]

/-- `LATCH` of Variant C, the one pseudo-operation of two words (30 R73). -/
def pseudoLatch : List TWord := [busWord .wrCtrl 0x6000 0x00, busWord .wrCtrl 0x6000 0x01]

end Sys2Proof
end

