-- ==== Sys2Proof/Machine/State.lean ====
section
/-! DEFINITION. The state of the machine as plain data, its faults and refusals, and the state right after reset. -/

namespace Sys2Proof.Machine

/-- A memory: the bytes that are not 0x00, with rising addresses. SRAM is "zero-initialized" (10 R39). -/
abbrev Memory := List Host.Cell

/-- The host's file operation that failed (60 R147, code 4). -/
inductive IoKind where
  | read
  | write
  deriving DecidableEq, Repr

/-- The source's three categories of fault (60 R143). -/
inductive FaultCategory where
  | configuration
  | addressing
  | io
  deriving DecidableEq, Repr

/-- The ten fault kinds with the info they record (60 R147). The spec describes what each leaves behind, so raising one is
a NEXT state: no step of this machine ends in `Host.Outcome.fault`. Each is SAFE: it says no more than the rule named. -/
inductive Fault where
  /-- LOAD raises it: the image has too few bytes (44 R125). No device is made. Safe. -/
  | imageTooSmall (romLen : Nat)
  /-- LOAD raises it: the type byte is not in TYPE_TABLE (44 R129). No device is made. Safe. -/
  | unsupportedCartridgeType (type : Byte)
  /-- X.WR_CTRL_UNMAPPED raises it (60 R149). Status becomes Faulted. Safe. -/
  | unmappedControlAddress (addr : Addr)
  /-- LOAD (read) and FLUSH (write) raise it: the host cannot read or write the save file (44 R135, R140). Safe. -/
  | saveFileIO (kind : IoKind)
  /-- X.RD_PROG_OOW raises it (60 R149). Status becomes Faulted. Safe. -/
  | programAddressOutOfWindow (addr : Addr)
  /-- The program reads raise it: the ROM index is at or past `rom_len` (20 R47). Status becomes Faulted. Safe. -/
  | romIndexOutOfRange (index : Nat)
  /-- The save accesses of B and C raise it: the SRAM index is at or past `sram_size` (20 R49). Status becomes Faulted.
  Safe. -/
  | saveIndexOutOfRange (index : Nat)
  /-- The save accesses of C raise it: `ram_bank` selects nothing (42 R95). Status becomes Faulted. Safe. -/
  | rtcRegisterUnmapped (ramBank : Byte)
  /-- LOAD raises it: the save file has the wrong length (44 R134). No device is made. Safe. -/
  | saveFileMalformed (length : Nat)
  /-- FLUSH raises it: the epoch does not fit the save image's 64 bits (44 R138). The device ends. Safe. -/
  | epochOutOfRange (epoch : Int)
  deriving DecidableEq, Repr

/-- Where the spec gives an operation no move (93, treatment `refuse`). Each is SAFE: the machine stops where nothing is
said to happen. -/
inductive Refusal where
  /-- exec raises it for an operation that has no meaning yet. Safe. -/
  | notModelled (mnemonic : String)
  /-- A bus transaction or FLUSH raises it before any LOAD: a run starts with LOAD (60 R162). Turning to a device that is
  not there raises it too (log 4). Safe. -/
  | noDevice
  /-- A bus transaction raises it after a fault: only FLUSH is accepted (60 R145, 93 U21). Safe. -/
  | deviceFaulted
  /-- A bus transaction or FLUSH raises it after FLUSH: nothing is accepted (10 R41, 93 U21). Safe. -/
  | deviceFlushed
  /-- A form raises it in a device of a variant that has no such form (30 R67, R75); no word decodes to it there (log 13).
  Safe. -/
  | formOfAnotherVariant
  deriving DecidableEq, Repr

/-- `status` (10 R41). -/
inductive Status where
  | running
  | faulted (f : Fault)
  | flushed
  deriving DecidableEq, Repr

/-- The clock registers `RTC[0..4]` (10 R31 to R36). -/
structure RtcRegs where
  seconds : Byte
  minutes : Byte
  hours   : Byte
  dayLow  : Byte
  flags   : Byte
  deriving DecidableEq, Repr

/-- What the last operation answered (00 R18, 30 R63, 60 R148). DESIGN CHOICE (log 9). -/
inductive Response where
  /-- Nothing has been answered yet. -/
  | none
  /-- A read returned a byte. -/
  | byte (v : Byte)
  /-- A write or a FLUSH ended. -/
  | done
  /-- LOAD made a device. -/
  | loaded
  /-- The operation raised a fault. -/
  | fault (f : Fault)
  deriving DecidableEq, Repr

/-- What the environment issues: a bus transaction as its word (30 R64), or a host operation with its operands
(30 R74). With `select n` it turns to another device, the one at place `n` of `others`; DESIGN CHOICE (log 4). -/
inductive Command where
  | word (w : TWord)
  | load (image : ByteString) (save : SaveFile) (rtcZeroInit : Seconds)
  | flush (answer : HostWrite)
  | select (n : Nat)
  deriving DecidableEq, Repr

/-- A device apart from its environment: the configuration LOAD decided (00 R7) and the elements of 10 R20, with the
recorded fault and the save image (60 R162). Each field is that of `State`. -/
structure Device where
  config      : Configuration
  romBank     : BitVec 7
  ramBank     : Byte
  ramEnabled  : Bool
  ramMode     : Bool
  latched     : Bool
  rtc         : RtcRegs
  rtcZero     : Option Int
  sram        : Memory
  status      : Status
  faultRecord : Option Fault
  saveImage   : Option ByteString
  deriving DecidableEq, Repr

/-- The machine's state: the device at hand, by the elements of 10 R20 and the configuration of 00 R7, the other devices
(70 R163), and what passes between the block and its environment. A register that the device's variant lacks keeps its reset value (log 15). -/
structure State where
  /-- The configuration LOAD decided; none before the first LOAD (log 3). -/
  config      : Option Configuration
  /-- `rom_bank` (10 R22, R23). -/
  romBank     : BitVec 7
  /-- `ram_bank` (10 R25, R26); Variant B uses the low 2 bits (log 14). -/
  ramBank     : Byte
  /-- `ram_enabled` (10 R27). -/
  ramEnabled  : Bool
  /-- `ram_mode` (10 R28). -/
  ramMode     : Bool
  /-- `latched` (10 R29). -/
  latched     : Bool
  /-- `RTC[0..4]` (10 R31). -/
  rtc         : RtcRegs
  /-- `rtc_zero`, unset or an integer (10 R38). -/
  rtcZero     : Option Int
  /-- `SRAM` (10 R39). -/
  sram        : Memory
  /-- `status` (10 R41). -/
  status      : Status
  /-- The recorded fault, kept past FLUSH (60 R145, R153, R162; log 10). -/
  faultRecord : Option Fault
  /-- The save image FLUSH produced (44 R136, 60 R162; log 11). -/
  saveImage   : Option ByteString
  /-- The other devices that LOADs have made, the last one at hand first (70 R163; log 4). -/
  others      : List Device
  /-- What the last operation answered (log 9). -/
  response    : Response
  /-- The commands issued and not yet taken, oldest first (log 1). -/
  pending     : List Command
  /-- The Time Source's answers the environment has fixed, oldest first (log 7). -/
  timeAnswers : List Seconds
  /-- How many draws have been made (43 R121; log 7). -/
  drawCount   : Nat
  deriving DecidableEq, Repr

/-- What one step answers. -/
abbrev StepResult := Host.Outcome State Fault Refusal

/-- `RTC[0..4]` "created at construction (zeroed)" (10 R44). -/
def RtcRegs.reset : RtcRegs := { seconds := 0, minutes := 0, hours := 0, dayLow := 0, flags := 0 }

/-- The reset values of 10 R44; no LOAD has decided a configuration yet, and nothing is pending (log 3, log 12). -/
def State.reset : State where
  config := none
  romBank := 0x01
  ramBank := 0x00
  ramEnabled := false
  ramMode := false
  latched := false
  rtc := RtcRegs.reset
  rtcZero := none
  sram := []
  status := .running
  faultRecord := none
  saveImage := none
  others := []
  response := .none
  pending := []
  timeAnswers := []
  drawCount := 0

end Sys2Proof.Machine
end

