-- ==== Sys2Proof/Machine/Ops.lean ====
section
/-! DEFINITION. The named operations over memory, registers and devices, the Time Source's draw, taking a fault, and the gate that
every bus transaction passes. -/

namespace Sys2Proof.Machine

/-! ### Memory -/

/-- A memory is in its one canonical form. -/
def Memory.wf (m : Memory) : Bool := cellsWf m

/-- Every listed address lies below `n`. -/
def Memory.below (n : Nat) (m : Memory) : Bool := m.all (fun c => decide (c.1 < n))

/-- `MemRead` (00 R15): an unlisted byte is 0x00 (10 R39). -/
def Memory.read : Memory → Nat → Byte
  | [], _ => 0
  | c :: rest, a => if c.1 = a then c.2 else Memory.read rest a

/-- The cell of one byte: none for 0x00, which an unlisted address reads as. -/
def Memory.cell (a : Nat) (v : Byte) : Memory := if v = 0 then [] else [(a, v)]

/-- `MemWrite` (00 R15), keeping the canonical form. -/
def Memory.write : Memory → Nat → Byte → Memory
  | [], a, v => Memory.cell a v
  | c :: rest, a, v =>
    if a < c.1 then Memory.cell a v ++ c :: rest
    else if a = c.1 then Memory.cell a v ++ rest
    else c :: Memory.write rest a v

/-- The bytes of the list, written from address `a` up. -/
def Memory.writeBytes : Memory → Nat → List Byte → Memory
  | m, _, [] => m
  | m, a, v :: rest => Memory.writeBytes (Memory.write m a v) (a + 1) rest

/-- A byte string's bytes as a memory in canonical form, whatever the order its cells stand in (log 6). -/
def memoryOf (b : ByteString) : Memory :=
  (b.cells.filter (fun c => decide (c.1 < b.len))).foldr (fun c m => Memory.write m c.1 c.2) []

/-- The same byte string in its canonical form (log 6). -/
def normalBytes (b : ByteString) : ByteString := { len := b.len, cells := memoryOf b }

/-! ### Registers -/

/-- `rom_bank <- v`. -/
def State.setRomBank (s : State) (v : BitVec 7) : State := { s with romBank := v }

/-- `ram_bank <- v`. -/
def State.setRamBank (s : State) (v : Byte) : State := { s with ramBank := v }

/-- `ram_enabled <- v`. -/
def State.setRamEnabled (s : State) (v : Bool) : State := { s with ramEnabled := v }

/-- `ram_mode <- v`. -/
def State.setRamMode (s : State) (v : Bool) : State := { s with ramMode := v }

/-- `latched <- v`. -/
def State.setLatched (s : State) (v : Bool) : State := { s with latched := v }

/-- All of `RTC[0..4]`. -/
def State.setRtc (s : State) (v : RtcRegs) : State := { s with rtc := v }

/-- `rtc_zero <- v`. -/
def State.setRtcZero (s : State) (v : Option Int) : State := { s with rtcZero := v }

/-- All of `SRAM`. -/
def State.setSram (s : State) (v : Memory) : State := { s with sram := v }

/-- `status <- v`. -/
def State.setStatus (s : State) (v : Status) : State := { s with status := v }

/-- The recorded fault. -/
def State.setFaultRecord (s : State) (v : Option Fault) : State := { s with faultRecord := v }

/-- The save image produced. -/
def State.setSaveImage (s : State) (v : Option ByteString) : State := { s with saveImage := v }

/-- The answer to the environment. -/
def State.setResponse (s : State) (v : Response) : State := { s with response := v }

/-- The commands that wait. -/
def State.setPending (s : State) (v : List Command) : State := { s with pending := v }

/-- The Time Source's fixed answers. -/
def State.setTimeAnswers (s : State) (v : List Seconds) : State := { s with timeAnswers := v }

/-- The number of draws made. -/
def State.setDrawCount (s : State) (v : Nat) : State := { s with drawCount := v }

/-- `RTC[r]` (43 R115). -/
def RtcRegs.get (g : RtcRegs) : RtcReg → Byte
  | .seconds => g.seconds
  | .minutes => g.minutes
  | .hours => g.hours
  | .dayLow => g.dayLow
  | .flags => g.flags

/-- `RTC[r] <- v`, all 8 bits (43 R116, R117). -/
def RtcRegs.set (g : RtcRegs) (r : RtcReg) (v : Byte) : RtcRegs :=
  match r with
  | .seconds => { g with seconds := v }
  | .minutes => { g with minutes := v }
  | .hours => { g with hours := v }
  | .dayLow => { g with dayLow := v }
  | .flags => { g with flags := v }

/-! ### Devices -/

/-- The device at hand; none before the first LOAD. -/
def State.asDevice (s : State) : Option Device :=
  s.config.map fun c =>
    { config := c, romBank := s.romBank, ramBank := s.ramBank, ramEnabled := s.ramEnabled, ramMode := s.ramMode,
      latched := s.latched, rtc := s.rtc, rtcZero := s.rtcZero, sram := s.sram, status := s.status,
      faultRecord := s.faultRecord, saveImage := s.saveImage }

/-- Every device, the one at hand first. -/
def State.devices (s : State) : List Device := s.asDevice.toList ++ s.others

/-- The state with the device `d` at hand and the devices `rest` beside it. The environment's fields stay. -/
def State.bring (s : State) (d : Device) (rest : List Device) : State :=
  { s with
    config := some d.config
    romBank := d.romBank
    ramBank := d.ramBank
    ramEnabled := d.ramEnabled
    ramMode := d.ramMode
    latched := d.latched
    rtc := d.rtc
    rtcZero := d.rtcZero
    sram := d.sram
    status := d.status
    faultRecord := d.faultRecord
    saveImage := d.saveImage
    others := rest }

/-- The environment turns to the device at place `n` of `others`; no device changes (60 R158, 70 R163; log 4). -/
def selectDevice (n : Nat) (s : State) : StepResult :=
  match s.others[n]? with
  | none => .refused .noDevice
  | some d => .next (s.bring d (s.asDevice.toList ++ s.others.eraseIdx n))

/-! ### The Time Source -/

/-- The value the next `now()` returns (00 R16): what the environment has fixed, else the free value of this draw
(log 7). -/
def State.nextDraw (s : State) : Int :=
  match s.timeAnswers with
  | [] => (Config.timeDraw s.drawCount).toInt
  | t :: _ => t.toInt

/-- The state once that draw is made. -/
def State.afterDraw (s : State) : State :=
  (s.setTimeAnswers s.timeAnswers.tail).setDrawCount (s.drawCount + 1)

/-! ### Ends of an operation -/

/-- `return v` (00 R18). -/
def returnByte (v : Byte) (s : State) : StepResult := .next (s.setResponse (.byte v))

/-- `done`, or `nop` on an unchanged state (00 R18). -/
def finish (s : State) : StepResult := .next (s.setResponse .done)

/-- Taking a fault in a bus transaction: `status <- Faulted(F, info)`, recorded and reported, and nothing else written
(00 R17, 60 R143, R144, R148, R152). No rule returns from it (60 R153). -/
def raiseFault (f : Fault) (s : State) : StepResult :=
  .next (((s.setStatus (.faulted f)).setFaultRecord (some f)).setResponse (.fault f))

/-- The fault that stays recorded when another is raised: the first (60 R145, R153). -/
def firstFault (recorded : Option Fault) (f : Fault) : Option Fault :=
  match recorded with
  | some g => some g
  | none => some f

/-- The numeric code of a fault (60 R147). -/
def Fault.code : Fault → Nat
  | .imageTooSmall _ => 1
  | .unsupportedCartridgeType _ => 2
  | .unmappedControlAddress _ => 3
  | .saveFileIO _ => 4
  | .programAddressOutOfWindow _ => 5
  | .romIndexOutOfRange _ => 6
  | .saveIndexOutOfRange _ => 7
  | .rtcRegisterUnmapped _ => 8
  | .saveFileMalformed _ => 9
  | .epochOutOfRange _ => 10

/-- The category of a fault (60 R147). -/
def Fault.category : Fault → FaultCategory
  | .imageTooSmall _ => .configuration
  | .unsupportedCartridgeType _ => .configuration
  | .unmappedControlAddress _ => .addressing
  | .saveFileIO _ => .io
  | .programAddressOutOfWindow _ => .addressing
  | .romIndexOutOfRange _ => .addressing
  | .saveIndexOutOfRange _ => .addressing
  | .rtcRegisterUnmapped _ => .addressing
  | .saveFileMalformed _ => .io
  | .epochOutOfRange _ => .io

/-! ### The gate of a bus transaction -/

/-- A device takes a bus transaction only while Running (10 R41, 60 R145); before any LOAD there is no device. -/
def onDevice (s : State) (k : Configuration → StepResult) : StepResult :=
  match s.config with
  | none => .refused .noDevice
  | some c =>
    match s.status with
    | .running => k c
    | .faulted _ => .refused .deviceFaulted
    | .flushed => .refused .deviceFlushed

/-- A form of one variant: only a device of that variant has it (30 R67, R75). -/
def onVariant (v : Variant) (s : State) (k : Configuration → StepResult) : StepResult :=
  onDevice s fun c => if c.variant = v then k c else .refused .formOfAnotherVariant

/-- The memory access that ends a program read: the index is checked first (00 R15, 60 R146, R150). -/
def readRom (c : Configuration) (i : Nat) (s : State) : StepResult :=
  if c.rom.len ≤ i then raiseFault (.romIndexOutOfRange i) s
  else returnByte (Memory.read c.rom.cells i) s

/-- The SRAM access that ends a save read (00 R15, 60 R146, R150). -/
def readSram (c : Configuration) (i : Nat) (s : State) : StepResult :=
  if c.sramSize ≤ i then raiseFault (.saveIndexOutOfRange i) s
  else returnByte (Memory.read s.sram i) s

/-- The SRAM access that ends a save write (00 R15, 60 R146, R150). -/
def writeSram (c : Configuration) (i : Nat) (v : Byte) (s : State) : StepResult :=
  if c.sramSize ≤ i then raiseFault (.saveIndexOutOfRange i) s
  else finish (s.setSram (Memory.write s.sram i v))

end Sys2Proof.Machine
end

