-- ==== Sys2Proof/Machine/Operands.lean ====
section
/-! DEFINITION. Operand assembly (30 R68) and the address maps of the program and save windows (20 R47, R49). -/

namespace Sys2Proof.Machine

/-! ### Address operands -/

/-- The ROM index of a Variant A read: `addr[14:0]` (30 R68, 40 R77). -/
def romIndexA (addr : Addr) : Nat := (addr.extractLsb' 0 15).toNat

/-- `addr[13:0]` (30 R68). -/
def romOffset (addr : Addr) : Nat := (addr.extractLsb' 0 14).toNat

/-- `addr[12:0]`, the offset into the save window; `addr[15:13]` is ignored (20 R48). -/
def saveOffset (addr : Addr) : Nat := (addr.extractLsb' 0 13).toNat

/-- The ROM index of the switchable window: `(rom_bank * 0x4000) | addr[13:0]` (20 R47). -/
def romIndexX (romBank : BitVec 7) (addr : Addr) : Nat := (romBank.toNat * 0x4000) ||| romOffset addr

/-- `(bank * 0x2000) | addr[12:0]` (00 R10). -/
def sramIndex (bank : Nat) (addr : Addr) : Nat := (bank * 0x2000) ||| saveOffset addr

/-- The effective RAM bank of Variant B: "ram_bank if ram_mode else 0" (41 R84). -/
def effectiveBankB (s : State) : Nat := if s.ramMode then s.ramBank.toNat else 0

/-- `save_index(addr)` of Variant B (41 R84). -/
def saveIndexB (s : State) (addr : Addr) : Nat := sramIndex (effectiveBankB s) addr

/-- What Variant C's save window shows (42 R95). -/
inductive SaveTarget where
  | absent
  | sramAt (i : Nat)
  | rtcReg (r : RtcReg)
  | unmapped (bank : Byte)
  deriving DecidableEq, Repr

/-- The clock register that `ram_bank` selects: `ram_bank - 8` indexes the five (10 R31). -/
def rtcSelect (bank : Byte) : Option RtcReg :=
  if bank = 0x08 then some .seconds
  else if bank = 0x09 then some .minutes
  else if bank = 0x0A then some .hours
  else if bank = 0x0B then some .dayLow
  else if bank = 0x0C then some .flags
  else none

/-- `target(addr)` of Variant C (42 R95). -/
def saveTargetC (c : Configuration) (ramBank : Byte) (addr : Addr) : SaveTarget :=
  if ramBank.toNat ≤ 3 then
    if c.sramSize = 0 then .absent else .sramAt (sramIndex ramBank.toNat addr)
  else
    match rtcSelect ramBank with
    | some r => .rtcReg r
    | none => .unmapped ramBank

/-! ### Value operands -/

/-- "0 coerced to 1" (41 R87, 42 R98). -/
def coerceBank (b : BitVec 7) : BitVec 7 := if b = 0 then 1 else b

/-- `max(value[4:0], 1)`, beside the high bits that B.WR_ROMLO leaves alone (30 R68, 41 R87). -/
def romBankLow (old : BitVec 7) (value : Byte) : BitVec 7 :=
  (old &&& 0x60#7) ||| coerceBank ((value &&& 0x1F#8).setWidth 7)

/-- `value[1:0]` in bits 6:5, beside the low bits that B.WR_BANKHI leaves alone (30 R68, 41 R88). -/
def romBankHigh (old : BitVec 7) (value : Byte) : BitVec 7 :=
  (old &&& 0x1F#7) ||| ((value &&& 0x03#8).setWidth 7 <<< 5)

/-- `max(value[6:0], 1)` (30 R68, 42 R98). -/
def romBankC (value : Byte) : BitVec 7 := coerceBank ((value &&& 0x7F#8).setWidth 7)

/-- `value[1:0]` (30 R68, 41 R88). -/
def ramBankB (value : Byte) : Byte := value &&& 0x03#8

end Sys2Proof.Machine
end

