-- ==== Sys2Proof/Machine/Illegal.lean ====
section
/-! DEFINITION. The two illegal forms, the same in every variant (60 R149). -/

namespace Sys2Proof.Machine

/-- X.RD_PROG_OOW: `raise ProgramAddressOutOfWindow(addr)` (60 R149). -/
def execXRdProgOow (addr : Addr) (s : State) : StepResult :=
  onDevice s fun _ => raiseFault (.programAddressOutOfWindow addr) s

/-- X.WR_CTRL_UNMAPPED: `raise UnmappedControlAddress(addr)` (60 R149). -/
def execXWrCtrlUnmapped (addr : Addr) (_value : Byte) (s : State) : StepResult :=
  onDevice s fun _ => raiseFault (.unmappedControlAddress addr) s

end Sys2Proof.Machine
end

