-- ==== Sys2Proof/Machine/Persist.lean ====
section
/-! DEFINITION. Configuration load and save-image persistence: TYPE_TABLE, the header, the save-image formats, LOAD and
FLUSH (spec/44_load_and_persist.md). -/

namespace Sys2Proof.Machine

/-! ### The header -/

/-- `TYPE_TABLE` (44 R124). -/
def typeTable (type : Byte) : Option CartridgeKind :=
  match type.toNat with
  | 0x00 => some { variant := .a, usesSizeByte := false, battery := false, clockCapable := false }
  | 0x01 => some { variant := .b, usesSizeByte := false, battery := false, clockCapable := false }
  | 0x02 => some { variant := .b, usesSizeByte := true, battery := false, clockCapable := false }
  | 0x03 => some { variant := .b, usesSizeByte := true, battery := true, clockCapable := false }
  | 0x0F => some { variant := .c, usesSizeByte := false, battery := true, clockCapable := true }
  | 0x10 => some { variant := .c, usesSizeByte := true, battery := true, clockCapable := true }
  | 0x11 => some { variant := .c, usesSizeByte := false, battery := false, clockCapable := false }
  | 0x12 => some { variant := .c, usesSizeByte := true, battery := false, clockCapable := false }
  | 0x13 => some { variant := .c, usesSizeByte := true, battery := true, clockCapable := false }
  | _ => none

/-- `RAM_SIZE` (00 R11). -/
def ramSize (code : Byte) : Nat :=
  match code.toNat with
  | 1 => 0x800
  | 2 => 0x2000
  | 3 => 0x8000
  | _ => 0

/-- The configuration of an image of a known kind (44 R123, R126). -/
def configOf (rom : ByteString) (kind : CartridgeKind) : Configuration where
  variant := kind.variant
  rom := rom
  sramSize := if kind.usesSizeByte then ramSize (Memory.read rom.cells 0x149) else 0
  battery := kind.battery
  clockCapable := kind.clockCapable

/-- LOAD's header checks, in order: the image's size, the type, the size byte's presence (44 R123, R125, R129, 60 R150). -/
def readHeader (rom : ByteString) : Except Fault Configuration :=
  if rom.len < 0x149 then .error (.imageTooSmall rom.len)
  else
    match typeTable (Memory.read rom.cells 0x147) with
    | none => .error (.unsupportedCartridgeType (Memory.read rom.cells 0x147))
    | some kind =>
      if kind.usesSizeByte = true ∧ rom.len < 0x14A then .error (.imageTooSmall rom.len)
      else .ok (configOf rom kind)

/-! ### The save image -/

/-- Byte `k` of `encode_be_s64(e)`: `((e mod 2^64) >> (8 * (7 - k))) & 0xFF` (44 R139). -/
def epochByte (e : Int) (k : Nat) : Byte := BitVec.ofNat 8 ((e % 2 ^ 64).toNat >>> (8 * (7 - k)))

/-- `encode_be_s64(e)` (44 R139). -/
def encodeEpoch (e : Int) : List Byte :=
  [epochByte e 0, epochByte e 1, epochByte e 2, epochByte e 3, epochByte e 4, epochByte e 5, epochByte e 6, epochByte e 7]

/-- The number that bytes spell, the first the most significant. -/
def bigEndian : Nat → List Byte → Nat
  | n, [] => n
  | n, b :: rest => bigEndian (n * 256 + b.toNat) rest

/-- `decode_be_s64(b)` (44 R139). -/
def decodeEpoch (bytes : List Byte) : Int := (BitVec.ofNat 64 (bigEndian 0 bytes)).toInt

/-- The first eight bytes of a save image. -/
def firstEight (m : Memory) : List Byte :=
  [m.read 0, m.read 1, m.read 2, m.read 3, m.read 4, m.read 5, m.read 6, m.read 7]

/-- SRAM moved up behind the 8-byte epoch (44 R138). -/
def behindEpoch (sram : Memory) : Memory := sram.map fun c => (c.1 + 8, c.2)

/-- What follows the 8-byte epoch of a save image (44 R132). -/
def afterEpoch (image : Memory) : Memory :=
  (image.filter fun c => decide (8 ≤ c.1)).map fun c => (c.1 - 8, c.2)

/-- "the reference epoch, or 0 if the variant is clock-incapable" (44 R138). -/
def savedEpoch (c : Configuration) (rtcZero : Option Int) : Int :=
  if c.clockCapable then rtcZero.getD 0 else 0

/-- The epoch fits the save image's signed 64 bits (44 R138). -/
def epochFits (e : Int) : Bool := decide (-2 ^ 63 ≤ e) && decide (e ≤ 2 ^ 63 - 1)

/-- The save image of a battery device: SRAM alone in Variant B, the epoch and then SRAM in Variant C (44 R137, R138). No
Variant A device has a battery (44 R127). -/
def saveImageOf (c : Configuration) (s : State) : Except Fault ByteString :=
  match c.variant with
  | .c =>
    if epochFits (savedEpoch c s.rtcZero) then
      .ok { len := 8 + c.sramSize
            cells := Memory.writeBytes (behindEpoch s.sram) 0 (encodeEpoch (savedEpoch c s.rtcZero)) }
    else .error (.epochOutOfRange (savedEpoch c s.rtcZero))
  | _ => .ok { len := c.sramSize, cells := s.sram }

/-! ### LOAD -/

/-- SRAM and `rtc_zero` before any save image is applied (44 R130, R133). -/
def freshMemory (c : Configuration) (rtcZeroInit : Seconds) : Memory × Option Int :=
  ([], if c.clockCapable then some rtcZeroInit.toInt else none)

/-- Restore from the save file's bytes, whose length must fit exactly (44 R131, R132, R134). -/
def restoreBytes (c : Configuration) (b : ByteString) (rtcZeroInit : Seconds) : Except Fault (Memory × Option Int) :=
  match c.variant with
  | .c =>
    if b.len = 8 + c.sramSize then
      .ok (afterEpoch (memoryOf b),
        if c.clockCapable then some (decodeEpoch (firstEight (memoryOf b))) else none)
    else .error (.saveFileMalformed b.len)
  | _ =>
    if b.len = c.sramSize then .ok (memoryOf b, (freshMemory c rtcZeroInit).2)
    else .error (.saveFileMalformed b.len)

/-- SRAM and `rtc_zero` at the end of LOAD. Only a battery device reads a save file (44 R127, R133), so only there can the
read fail (44 R135; log 8). -/
def restore (c : Configuration) (save : SaveFile) (rtcZeroInit : Seconds) : Except Fault (Memory × Option Int) :=
  if c.battery then
    match save with
    | .absent => .ok (freshMemory c rtcZeroInit)
    | .bytes b => restoreBytes c b rtcZeroInit
    | .unreadable => .error (.saveFileIO .read)
  else .ok (freshMemory c rtcZeroInit)

/-- The new device: every register at its reset value (10 R44, 70 R164), with the configuration, SRAM and epoch that LOAD
decided. The device that was at hand stands first among the others, as it was (70 R163). What is pending, and the Time
Source, are the environment's and stay. -/
def State.newDevice (s : State) (c : Configuration) (m : Memory × Option Int) : State :=
  { State.reset with
    config := some c
    sram := m.1
    rtcZero := m.2
    others := s.devices
    response := .loaded
    pending := s.pending
    timeAnswers := s.timeAnswers
    drawCount := s.drawCount }

/-- What LOAD makes of an image: a configuration, SRAM and epoch, or the first failing check's fault (44 R123). -/
def loadDevice (image : ByteString) (save : SaveFile) (rtcZeroInit : Seconds) :
    Except Fault (Configuration × Memory × Option Int) :=
  match readHeader (normalBytes image) with
  | .error f => .error f
  | .ok c =>
    match restore c save rtcZeroInit with
    | .error f => .error f
    | .ok m => .ok (c, m)

/-- LOAD (44 R123): a new device, or a fault that makes none and is reported (60 R143). It changes no device that is there
(70 R163; log 4). -/
def execLoad (image : ByteString) (save : SaveFile) (rtcZeroInit : Seconds) (s : State) : StepResult :=
  match loadDevice image save rtcZeroInit with
  | .error f => .next (s.setResponse (.fault f))
  | .ok (c, m) => .next (s.newDevice c m)

/-! ### FLUSH -/

/-- FLUSH's end with a fault: the device ends all the same (44 R140), and an earlier fault stays recorded (60 R153). -/
def endFaulted (f : Fault) (s : State) : State :=
  ((s.setStatus .flushed).setFaultRecord (firstFault s.faultRecord f)).setResponse (.fault f)

/-- FLUSH's end without a fault (44 R136). -/
def endFlushed (image : Option ByteString) (s : State) : State :=
  ((s.setStatus .flushed).setSaveImage image).setResponse .done

/-- Teardown of a device (44 R136 to R138, R140; 60 R150): no image without a battery; else the epoch's range, then the
host's write. -/
def teardown (c : Configuration) (answer : HostWrite) (s : State) : State :=
  if c.battery then
    match saveImageOf c s with
    | .error f => endFaulted f s
    | .ok image =>
      match answer with
      | .stored => endFlushed (some image) s
      | .failed => endFaulted (.saveFileIO .write) s
  else endFlushed none s

/-- FLUSH (44 R136): taken once, in Running or Faulted. -/
def execFlush (answer : HostWrite) (s : State) : StepResult :=
  match s.config with
  | none => .refused .noDevice
  | some c =>
    match s.status with
    | .flushed => .refused .deviceFlushed
    | .running => .next (teardown c answer s)
    | .faulted _ => .next (teardown c answer s)

end Sys2Proof.Machine
end

