-- ==== Sys2Proof/Machine/VariantA.lean ====
section
/-! DEFINITION. The four forms of Variant A (spec/40_variant_a.md). -/

namespace Sys2Proof.Machine

/-- A.RD_ROM (40 R77). -/
def execARdRom (addr : Addr) (s : State) : StepResult :=
  onVariant .a s fun c => readRom c (romIndexA addr) s

/-- A.RD_SAVE: "always returns 0" (40 R78). -/
def execARdSave (_addr : Addr) (s : State) : StepResult :=
  onVariant .a s fun _ => returnByte 0x00 s

/-- A.WR_CTRL: nop (40 R79). -/
def execAWrCtrl (_addr : Addr) (_value : Byte) (s : State) : StepResult :=
  onVariant .a s fun _ => finish s

/-- A.WR_SAVE: nop (40 R80). -/
def execAWrSave (_addr : Addr) (_value : Byte) (s : State) : StepResult :=
  onVariant .a s fun _ => finish s

end Sys2Proof.Machine
end

