-- ==== Sys2Proof/Machine/Flags.lean ====
section
/-! DEFINITION. The one-bit registers' written values, and the fields of the clock's flags byte (10 R36). -/

namespace Sys2Proof.Machine

/-- `ram_enabled` becomes 1 iff all 8 bits equal 0x0A (10 R27, 41 R86). -/
def ramEnableOf (value : Byte) : Bool := value == 0x0A#8

/-- `ram_mode` becomes `value[0]` (41 R89). -/
def ramModeOf (value : Byte) : Bool := value.getLsbD 0

/-- `HALT`, bit 6 (10 R36). -/
def haltFlag (flags : Byte) : Bool := flags.getLsbD 6

/-- `CARRY`, bit 7 (10 R36). -/
def carryFlag (flags : Byte) : Bool := flags.getLsbD 7

/-- `(flags & 0xFE) | ((days >> 8) & 1)`: bit 0 from bit 8 of the day count, bits 7:1 kept (43 R107). -/
def withDayHigh (flags : Byte) (days : Nat) : Byte :=
  (flags &&& 0xFE#8) ||| BitVec.ofNat 8 ((days >>> 8) &&& 1)

/-- `flags | 0x80` (43 R107). -/
def withCarry (flags : Byte) : Byte := flags ||| 0x80#8

/-- The 9-bit day counter `(RTC[4] & 1) * 256 + RTC[3]` (10 R37). -/
def days9 (g : RtcRegs) : Nat := (g.flags &&& 1#8).toNat * 256 + g.dayLow.toNat

end Sys2Proof.Machine
end

