-- ==== Sys2Proof/Machine/VariantB.lean ====
section
/-! DEFINITION. The eight forms of Variant B (spec/41_variant_b.md). -/

namespace Sys2Proof.Machine

/-- B.RD_ROM0: the fixed window shows bank 0 (41 R82). -/
def execBRdRom0 (addr : Addr) (s : State) : StepResult :=
  onVariant .b s fun c => readRom c (romOffset addr) s

/-- B.RD_ROMX: the switchable window (41 R83). -/
def execBRdRomX (addr : Addr) (s : State) : StepResult :=
  onVariant .b s fun c => readRom c (romIndexX s.romBank addr) s

/-- The two gates of Variant B's save window, before any range check: absent or disabled memory (41 R85, R90, 60 R150). -/
def saveGateClosedB (c : Configuration) (s : State) : Bool := c.sramSize == 0 || !s.ramEnabled

/-- B.RD_SAVE (41 R85). -/
def execBRdSave (addr : Addr) (s : State) : StepResult :=
  onVariant .b s fun c =>
    if saveGateClosedB c s then returnByte 0x00 s else readSram c (saveIndexB s addr) s

/-- B.WR_RAMEN (41 R86). -/
def execBWrRamEn (_addr : Addr) (value : Byte) (s : State) : StepResult :=
  onVariant .b s fun _ => finish (s.setRamEnabled (ramEnableOf value))

/-- B.WR_ROMLO (41 R87). -/
def execBWrRomLo (_addr : Addr) (value : Byte) (s : State) : StepResult :=
  onVariant .b s fun _ => finish (s.setRomBank (romBankLow s.romBank value))

/-- B.WR_BANKHI: routed by `ram_mode` as it is now (41 R88). -/
def execBWrBankHi (_addr : Addr) (value : Byte) (s : State) : StepResult :=
  onVariant .b s fun _ =>
    if s.ramMode then finish (s.setRamBank (ramBankB value))
    else finish (s.setRomBank (romBankHigh s.romBank value))

/-- B.WR_MODE (41 R89). -/
def execBWrMode (_addr : Addr) (value : Byte) (s : State) : StepResult :=
  onVariant .b s fun _ => finish (s.setRamMode (ramModeOf value))

/-- B.WR_SAVE (41 R90). -/
def execBWrSave (addr : Addr) (value : Byte) (s : State) : StepResult :=
  onVariant .b s fun c =>
    if saveGateClosedB c s then finish s else writeSram c (saveIndexB s addr) value s

end Sys2Proof.Machine
end

