-- ==== Sys2Proof/Machine/Clock.lean ====
section
/-! DEFINITION. The clock's two algorithms over explicit state: the register derivation and the reference-epoch rebase
(43 R105, R107, R112). -/

namespace Sys2Proof.Machine

/-- The seconds the registers stand for: `RTC[0] + RTC[1]*60 + RTC[2]*3600 + days9*86400`, each read unsigned
(43 R112). -/
def registerSeconds (g : RtcRegs) : Int :=
  g.seconds.toNat + g.minutes.toNat * 60 + g.hours.toNat * 3600 + days9 g * 86400

/-- The registers that an elapsed count derives, without the carry; `flags` is the byte before (43 R107). -/
def derivedRegs (elapsed : Nat) (flags : Byte) : RtcRegs where
  seconds := BitVec.ofNat 8 (elapsed % 60)
  minutes := BitVec.ofNat 8 (elapsed / 60 % 60)
  hours := BitVec.ofNat 8 (elapsed / 3600 % 24)
  dayLow := BitVec.ofNat 8 (elapsed / 86400 % 256)
  flags := withDayHigh flags (elapsed / 86400)

/-- `max(0, now - rtc_zero)` (43 R107). -/
def elapsedSince (zero t : Int) : Nat := (max 0 (t - zero)).toNat

/-- `calc_rtc_zero()` (43 R112): with no epoch nothing; else one draw, and the epoch at which the registers as they stand
would show that draw. -/
def calcRtcZero (s : State) : State :=
  match s.rtcZero with
  | none => s
  | some _ => s.afterDraw.setRtcZero (some (s.nextDraw - registerSeconds s.rtc))

/-- The registers with `CARRY` set. -/
def carried (g : RtcRegs) : RtcRegs := { g with flags := withCarry g.flags }

/-- `calc_rtc_reg()` once the draw has given the elapsed count: the registers, and on 512 days or more the carry and the
rebase (43 R107, R111). -/
def showElapsed (elapsed : Nat) (s : State) : State :=
  if 512 ≤ elapsed / 86400 then calcRtcZero (s.setRtc (carried (derivedRegs elapsed s.rtc.flags)))
  else s.setRtc (derivedRegs elapsed s.rtc.flags)

/-- `calc_rtc_reg()` (43 R107): nothing with no epoch or while halted; else one draw and the derivation. -/
def calcRtcReg (s : State) : State :=
  match s.rtcZero with
  | none => s
  | some zero =>
    if haltFlag s.rtc.flags then s else showElapsed (elapsedSince zero s.nextDraw) s.afterDraw

end Sys2Proof.Machine
end

