-- ==== Sys2Proof/Machine/VariantC.lean ====
section
/-! DEFINITION. The eight forms of Variant C (spec/42_variant_c_banking.md, and the latch of spec/43_rtc.md). -/

namespace Sys2Proof.Machine

/-- C.RD_ROM0: the fixed window shows bank 0 (42 R93). -/
def execCRdRom0 (addr : Addr) (s : State) : StepResult :=
  onVariant .c s fun c => readRom c (romOffset addr) s

/-- C.RD_ROMX: the switchable window (42 R94). -/
def execCRdRomX (addr : Addr) (s : State) : StepResult :=
  onVariant .c s fun c => readRom c (romIndexX s.romBank addr) s

/-- A save read through what the window shows (42 R96); a clock register gives its stored byte (43 R115). -/
def readTarget (c : Configuration) (t : SaveTarget) (s : State) : StepResult :=
  match t with
  | .absent => returnByte 0x00 s
  | .sramAt i => readSram c i s
  | .rtcReg r => returnByte (s.rtc.get r) s
  | .unmapped b => raiseFault (.rtcRegisterUnmapped b) s

/-- A save write through what the window shows (42 R100); a clock register stores the byte, then the epoch is rebased
(43 R116). -/
def writeTarget (c : Configuration) (t : SaveTarget) (value : Byte) (s : State) : StepResult :=
  match t with
  | .absent => finish s
  | .sramAt i => writeSram c i value s
  | .rtcReg r => finish (calcRtcZero (s.setRtc (s.rtc.set r value)))
  | .unmapped b => raiseFault (.rtcRegisterUnmapped b) s

/-- C.RD_SAVE (42 R96). -/
def execCRdSave (addr : Addr) (s : State) : StepResult :=
  onVariant .c s fun c =>
    if s.ramEnabled then readTarget c (saveTargetC c s.ramBank addr) s else returnByte 0x00 s

/-- C.WR_RAMEN (42 R97). -/
def execCWrRamEn (_addr : Addr) (value : Byte) (s : State) : StepResult :=
  onVariant .c s fun _ => finish (s.setRamEnabled (ramEnableOf value))

/-- C.WR_ROMB (42 R98). -/
def execCWrRomB (_addr : Addr) (value : Byte) (s : State) : StepResult :=
  onVariant .c s fun _ => finish (s.setRomBank (romBankC value))

/-- C.WR_RAMB (42 R99). -/
def execCWrRamB (_addr : Addr) (value : Byte) (s : State) : StepResult :=
  onVariant .c s fun _ => finish (s.setRamBank value)

/-- C.WR_LATCH: 0 clears, a 1 that finds `latched` clear captures, anything else is a nop (43 R113). -/
def execCWrLatch (_addr : Addr) (value : Byte) (s : State) : StepResult :=
  onVariant .c s fun _ =>
    if value = 0x00 then finish (s.setLatched false)
    else if value = 0x01 ∧ s.latched = false then finish ((calcRtcReg s).setLatched true)
    else finish s

/-- C.WR_SAVE (42 R100). -/
def execCWrSave (addr : Addr) (value : Byte) (s : State) : StepResult :=
  onVariant .c s fun c =>
    if s.ramEnabled then writeTarget c (saveTargetC c s.ramBank addr) value s else finish s

end Sys2Proof.Machine
end

