-- ==== Sys2Proof/Machine/Dispatch.lean ====
section
/-! DEFINITION. One arm per operation. -/

namespace Sys2Proof.Machine

def exec (i : Instr) (s : State) : Host.Outcome State Fault Refusal :=
  match i with
  | .aRdRom addr => Sys2Proof.Machine.execARdRom addr s
  | .aRdSave addr => Sys2Proof.Machine.execARdSave addr s
  | .aWrCtrl addr value => Sys2Proof.Machine.execAWrCtrl addr value s
  | .aWrSave addr value => Sys2Proof.Machine.execAWrSave addr value s
  | .bRdRom0 addr => Sys2Proof.Machine.execBRdRom0 addr s
  | .bRdRomX addr => Sys2Proof.Machine.execBRdRomX addr s
  | .bRdSave addr => Sys2Proof.Machine.execBRdSave addr s
  | .bWrRamEn addr value => Sys2Proof.Machine.execBWrRamEn addr value s
  | .bWrRomLo addr value => Sys2Proof.Machine.execBWrRomLo addr value s
  | .bWrBankHi addr value => Sys2Proof.Machine.execBWrBankHi addr value s
  | .bWrMode addr value => Sys2Proof.Machine.execBWrMode addr value s
  | .bWrSave addr value => Sys2Proof.Machine.execBWrSave addr value s
  | .cRdRom0 addr => Sys2Proof.Machine.execCRdRom0 addr s
  | .cRdRomX addr => Sys2Proof.Machine.execCRdRomX addr s
  | .cRdSave addr => Sys2Proof.Machine.execCRdSave addr s
  | .cWrRamEn addr value => Sys2Proof.Machine.execCWrRamEn addr value s
  | .cWrRomB addr value => Sys2Proof.Machine.execCWrRomB addr value s
  | .cWrRamB addr value => Sys2Proof.Machine.execCWrRamB addr value s
  | .cWrLatch addr value => Sys2Proof.Machine.execCWrLatch addr value s
  | .cWrSave addr value => Sys2Proof.Machine.execCWrSave addr value s
  | .xRdProgOow addr => Sys2Proof.Machine.execXRdProgOow addr s
  | .xWrCtrlUnmapped addr value => Sys2Proof.Machine.execXWrCtrlUnmapped addr value s
  | .load image save rtcZeroInit => Sys2Proof.Machine.execLoad image save rtcZeroInit s
  | .flush answer => Sys2Proof.Machine.execFlush answer s

end Sys2Proof.Machine
end

