-- ==== Sys2Proof/Machine/Fetch.lean ====
section
/-! DEFINITION. How the next operation comes to the block: from the head of `pending`, decoded under the device's variant
(30 R67), and how a word is placed there. -/

namespace Sys2Proof.Machine

/-- What the head of `pending` asks for. -/
inductive Fetched where
  /-- Nothing is pending. -/
  | idle
  /-- The operation, and the state with its command taken from `pending`. -/
  | run (i : Instr) (s : State)
  /-- The environment turns to another device, and the state with that command taken from `pending`. -/
  | turn (n : Nat) (s : State)
  /-- A word before any LOAD: no device decodes it. -/
  | refused (r : Refusal)

/-- The operation at the head of `pending` (20 R57: in issue order). -/
def fetch (s : State) : Fetched :=
  match s.pending with
  | [] => .idle
  | .word w :: rest =>
    match s.config with
    | none => .refused .noDevice
    | some c => .run (decode c.variant w) (s.setPending rest)
  | .load image save rtcZeroInit :: rest => .run (.load image save rtcZeroInit) (s.setPending rest)
  | .flush answer :: rest => .run (.flush answer) (s.setPending rest)
  | .select n :: rest => .turn n (s.setPending rest)

/-- The cartridge that `withFetchWord` loads where no device is there: 0x8000 bytes, all 0x00 but the type byte 0x11, which
makes a Variant C device with no RAM, battery or clock. DESIGN CHOICE (log 3). -/
def blankCartridge : ByteString := { len := 0x8000, cells := [(0x147, 0x11)] }

/-- The state with a device: as it is if it has one, else after LOAD of the blank cartridge. -/
def withDevice (s : State) : State :=
  match s.config with
  | some _ => s
  | none =>
    match loadDevice blankCartridge .absent 0 with
    | .error _ => s
    | .ok (c, m) => s.newDevice c m

/-- The state with a word as the next command to be taken. -/
def placeWord (s : State) (nbits w : Nat) : State :=
  match tableWord nbits w with
  | some word => (withDevice s).setPending (.word word :: s.pending)
  | none => s

end Sys2Proof.Machine
end

