-- ==== Sys2Proof/Machine/Step.lean ====
section
/-! DEFINITION. One step: the next pending command is taken, decoded and run as one indivisible transaction (20 R54, R57,
30 R71). -/

namespace Sys2Proof.Machine

/-- One step. With nothing pending the block takes no step of its own (60 R156), and the state stays as it is (log 2). A
refused command stays pending: there is no next state (93 U21; log 5). -/
def step (s : State) : Host.Outcome State Fault Refusal :=
  match fetch s with
  | .idle => .next s
  | .run i t => exec i t
  | .turn n t => selectDevice n t
  | .refused r => .refused r

/-- The step relation of a device of configuration `c`, with the configuration as its argument (00 R7). The state's own
`config`, which the host's type of `step` asks for, plays no part in it (log 3). -/
def stepUnder (c : Configuration) (s : State) : StepResult := step { s with config := some c }

/-- The state with the instruction of the bits `w` as the next command, and with a device to take it (log 3). -/
def State.withFetchWord (s : State) (nbits w : Nat) : State := placeWord s nbits w

end Sys2Proof.Machine
end

