-- ==== Sys2Proof/Safety.lean ====
section
/-! DEFINITION. What counts as a safe run, in the terms the statements use: a device that takes transactions, a run that has
not failed, and the invariants of the state. -/

namespace Sys2Proof.Machine

/-- There is a device of this configuration and it is Running, so it takes every transaction of its variant (10 R41). -/
abbrev State.runs (s : State) (c : Configuration) : Prop := s.config = some c ∧ s.status = .running

/-- The state with a fault entered: its status, its record and its report, and nothing else (60 R144, R152). -/
def State.faultedWith (s : State) (f : Fault) : State :=
  { s with status := .faulted f, faultRecord := some f, response := .fault f }

/-- The five clock registers in index order (10 R31). -/
def RtcRegs.toList (g : RtcRegs) : List Byte := [g.seconds, g.minutes, g.hours, g.dayLow, g.flags]

/-- "A run that ends with a recorded fault is a failed run" (60 R162). -/
def State.failed (s : State) : Bool := s.faultRecord.isSome

/-- The state's device is of this variant. -/
def State.hasVariant (s : State) (v : Variant) : Bool :=
  match s.config with
  | some c => c.variant == v
  | none => false

/-- The length of SRAM; 0 before LOAD. -/
def State.sramLen (s : State) : Nat :=
  match s.config with
  | some c => c.sramSize
  | none => 0

/-- The device keeps a reference epoch (43 R106); none before LOAD. -/
def State.clocked (s : State) : Bool :=
  match s.config with
  | some c => c.clockCapable
  | none => false

/-- A configuration is what TYPE_TABLE and the header give for its own image, and the image is in canonical form. -/
abbrev configLegal (c : Configuration) : Prop :=
  readHeader c.rom = .ok c ∧ c.rom.wf = true

/-- The device's configuration is legal (00 R7, 44 R123). -/
abbrev State.configSound (s : State) : Prop := ∀ c ∈ s.config, configLegal c

/-- SRAM is in canonical form and every listed byte lies below its length (10 R39). -/
abbrev State.sramSound (s : State) : Prop := Memory.wf s.sram = true ∧ Memory.below s.sramLen s.sram = true

/-- `rom_bank` is never 0, and in Variant B its low five bits are never 0 (10 R24). -/
abbrev State.romBankSound (s : State) : Prop :=
  s.romBank ≠ 0 ∧ (s.hasVariant .b = true → s.romBank &&& 0x1F#7 ≠ 0)

/-- In Variant B `ram_bank` has two bits (10 R25). -/
abbrev State.ramBankSound (s : State) : Prop := s.hasVariant .b = true → s.ramBank.toNat < 4

/-- `rtc_zero` is set iff the device is clock-capable (10 R38). -/
abbrev State.epochSound (s : State) : Prop := s.rtcZero.isSome = s.clocked

/-- Whether the recorded fault fits the status: none while Running, the status's own while Faulted, and a save image only
once Flushed (10 R41, 60 R145). -/
def State.statusFits (s : State) : Bool :=
  match s.status with
  | .running => s.faultRecord.isNone && s.saveImage.isNone
  | .faulted f => s.faultRecord == some f && s.saveImage.isNone
  | .flushed => true

/-- The recorded fault fits the status. -/
abbrev State.statusSound (s : State) : Prop := s.statusFits = true

/-- A register that the device's variant lacks keeps its reset value (10 R20; log 15). -/
abbrev State.absentSound (s : State) : Prop :=
  (s.hasVariant .a = true → s.romBank = 1 ∧ s.ramBank = 0 ∧ s.ramEnabled = false ∧ s.sram = []) ∧
  (s.hasVariant .b = false → s.ramMode = false) ∧
  (s.hasVariant .c = false → s.latched = false ∧ s.rtc = RtcRegs.reset ∧ s.rtcZero = none)

/-- A property of one device, said of the device at hand and of every other one as it would stand at hand. -/
abbrev State.everyDevice (P : State → Prop) (s : State) : Prop := P s ∧ ∀ d ∈ s.others, P (s.bring d [])

/-- The bank selectors are legal. -/
abbrev State.banksSound (s : State) : Prop := s.romBankSound ∧ s.ramBankSound

/-- The invariant of the device at hand. -/
abbrev State.deviceSound (s : State) : Prop :=
  s.configSound ∧ s.sramSound ∧ s.romBankSound ∧ s.ramBankSound ∧ s.epochSound ∧ s.statusSound ∧ s.absentSound

/-- The invariant of the state, of every device in it: what every run keeps from reset on. -/
abbrev State.Inv (s : State) : Prop := s.everyDevice State.deviceSound

/-- The configurations of all devices, the one at hand first. -/
def State.configurations (s : State) : List Configuration := s.devices.map Device.config

/-- The optional premise `MonotoneTime` of 92 D17, over the answers that the environment has fixed: later draws are at
least as large. -/
abbrev State.MonotoneTime (s : State) : Prop := s.timeAnswers.Pairwise fun t u => t.toInt ≤ u.toInt

end Sys2Proof.Machine
end

