-- ==== Sys2Proof/Certificates/Slice0/Obligations.lean ====
section
/-! DEFINITION. The statements, from the spec's rules. A statement that a rule of the spec makes in full quotes it in
OBLIGATIONS.json; one that rests on a decision or a derivation of the spec, or on a choice of the model, says so here. -/

open Sys2Proof Sys2Proof.Machine

/-! ### Decoding -/

/-- Decoding a form's own word gives the form back, operand for operand, in every variant that has it (30, sections 2 and
3: the layout is the spec's decision D2). -/
def Obligations.DecodeOfEncodeIsTheForm : Prop :=
  ∀ (v : Variant) (i : Instr) (w : TWord),
    i.wellFormed = true → i.inVariant v = true → encode i = some w → decode v w = i

/-- Encoding what a word decodes to gives the word back; a read's data bits are ignored and come back 0 (30, section 2,
decision D28). -/
def Obligations.EncodeOfDecodeKeepsTheWord : Prop :=
  ∀ (v : Variant) (w : TWord),
    (wordOp w = .wrCtrl ∨ wordOp w = .wrSave → encode (decode v w) = some w) ∧
    (wordOp w = .rdProg ∨ wordOp w = .rdSave →
      encode (decode v w) = some (w &&& 0x3FFFF00#26) ∧ decode v (w &&& 0x3FFFF00#26) = decode v w)

/-- 30 R67: the decode is total and unambiguous: for every variant, every word decodes to a form of that variant, at an
address in that form's range, and matches that form's row of the opcode table and no other; which form it is depends on
`op` and `addr[15:13]` alone. -/
def Obligations.EveryWordMatchesExactlyItsRow : Prop :=
  ∀ (v : Variant) (w : TWord),
    (decode v w).wellFormed = true ∧ (decode v w).inVariant v = true ∧
    (∀ n : Nat, rowMatches v w n = true ↔ n = (decode v w).tableRow) ∧
    ∀ w' : TWord, wordOp w' = wordOp w → (wordAddr w').extractLsb' 13 3 = (wordAddr w).extractLsb' 13 3 →
      (decode v w').tableRow = (decode v w).tableRow

/-- The words that 95 V1 writes out decode, in Variant B, to the forms it names, and three of them in the other
variants. -/
def Obligations.VectorWordsDecode : Prop :=
  decode .b 0x0014700#26 = .bRdRom0 0x0147 ∧ decode .b 0x0400000#26 = .bRdRomX 0x4000 ∧
  decode .b 0x07FFF00#26 = .bRdRomX 0x7FFF ∧ decode .b 0x0800000#26 = .xRdProgOow 0x8000 ∧
  decode .b 0x1A00000#26 = .bRdSave 0xA000 ∧ decode .b 0x200000A#26 = .bWrRamEn 0x0000 0x0A ∧
  decode .b 0x2200005#26 = .bWrRomLo 0x2000 0x05 ∧ decode .b 0x2400001#26 = .bWrBankHi 0x4000 0x01 ∧
  decode .b 0x2600001#26 = .bWrMode 0x6000 0x01 ∧ decode .b 0x2800000#26 = .xWrCtrlUnmapped 0x8000 0x00 ∧
  decode .b 0x2FFFFFF#26 = .xWrCtrlUnmapped 0xFFFF 0xFF ∧ decode .b 0x3BFFF5A#26 = .bWrSave 0xBFFF 0x5A ∧
  decode .a 0x0400000#26 = .aRdRom 0x4000 ∧ decode .a 0x2200005#26 = .aWrCtrl 0x2000 0x05 ∧
  decode .c 0x2600001#26 = .cWrLatch 0x6000 0x01

/-! ### One step -/

/-- A step runs the decoded transaction: with a device, and a word at the head of what is pending, a step is `exec` of what
the word decodes to under the device's variant, the word being taken from `pending`; nothing else is added around `exec`.
The queue `pending` is the model's choice (log 1). -/
def Obligations.StepRunsTheDecodedWord : Prop :=
  ∀ (s : State) (c : Configuration) (w : TWord) (rest : List Command),
    s.config = some c → s.pending = .word w :: rest →
    step s = exec (decode c.variant w) (s.setPending rest)

/-- A step runs a host operation at the head of what is pending (30, section 5), in any state. With nothing pending the
block takes no step of its own and nothing changes (log 2, the model's choice of what a step is then); before any LOAD no
word is taken (log 3). Where the environment turns to another device, that device comes to hand exactly as it was left, the
one at hand goes to the head of the others as it is, and nothing of the environment changes but the queue; a turn to a
device that is not there is refused (log 4, the model's choice of how a device is addressed). The queue is the model's
choice (log 1). -/
def Obligations.StepRunsHostOperationsAndIdles : Prop :=
  ∀ (s : State) (rest : List Command) (image : ByteString) (save : SaveFile) (init : Seconds) (answer : HostWrite)
    (w : TWord) (n : Nat),
    (s.pending = .load image save init :: rest → step s = exec (.load image save init) (s.setPending rest)) ∧
    (s.pending = .flush answer :: rest → step s = exec (.flush answer) (s.setPending rest)) ∧
    (s.pending = [] → step s = .next s) ∧
    (s.config = none → s.pending = .word w :: rest → step s = .refused .noDevice) ∧
    (s.pending = .select n :: rest → s.others[n]? = none → step s = .refused .noDevice) ∧
    (∀ d : Device, s.pending = .select n :: rest → s.others[n]? = some d →
      ∃ t, step s = .next t ∧ t.asDevice = some d ∧ t.others = s.asDevice.toList ++ s.others.eraseIdx n ∧
        t.pending = rest ∧ t.response = s.response ∧ t.timeAnswers = s.timeAnswers ∧ t.drawCount = s.drawCount)

/-- A Running device accepts every transaction word (10, section 6; the status is the spec's decision D23), and no step of
any state ends in the host's fault outcome: every fault of the spec is entered as a next state. -/
def Obligations.RunningAcceptsEveryWord : Prop :=
  (∀ (s : State) (c : Configuration) (w : TWord) (rest : List Command),
    s.runs c → s.pending = .word w :: rest → ∃ t, step s = .next t) ∧
  (∀ (s : State) (f : Fault), step s ≠ .fault f)

/-! ### Reset -/

/-- The registers right after reset hold the values of the table in 10, section 7 (the selectors' values are the spec's
decision D15; the model's own fields are log 12). -/
def Obligations.ResetValues : Prop :=
  State.reset.romBank = 0x01 ∧ State.reset.ramBank = 0x00 ∧ State.reset.ramEnabled = false ∧
  State.reset.ramMode = false ∧ State.reset.latched = false ∧ State.reset.rtc.toList = [0, 0, 0, 0, 0] ∧
  State.reset.rtcZero = none ∧ (∀ a, State.reset.sram.read a = 0x00) ∧ State.reset.status = .running ∧
  State.reset.faultRecord = none ∧ State.reset.saveImage = none ∧ State.reset.others = [] ∧ State.reset.drawCount = 0

/-- The invariant holds at `State.reset`, the state before any LOAD. The values of that state are the model's choice (log
12), after those that 10, section 7 gives to the state after LOAD (the selectors' by the spec's decision D15). What the
invariant says of the selectors, the epoch, SRAM and the status comes from 10, sections 3 to 6; its last clause, on the
registers that a variant lacks, is the model's choice (log 15). -/
def Obligations.ResetMeetsTheInvariant : Prop := State.reset.Inv

/-! ### LOAD -/

/-- LOAD that finds no fault makes a new device with every register at the table's reset value and the configuration, SRAM
and epoch that the image and the save file gave; a device that was there is not changed: it stands, as it was, at the head
of the others. What is pending and the Time Source stay. LOAD that finds a fault makes no device and changes nothing but
the report (44, section 1; 70, section 1; decision D23; where the earlier device stands is log 4). -/
def Obligations.LoadMakesADeviceOrNone : Prop :=
  ∀ (image : ByteString) (save : SaveFile) (init : Seconds) (s : State),
    (∀ (c : Configuration) (m : Memory × Option Int), loadDevice image save init = .ok (c, m) →
      ∃ t, exec (.load image save init) s = .next t ∧
        t.config = some c ∧ t.sram = m.1 ∧ t.rtcZero = m.2 ∧
        t.romBank = 0x01 ∧ t.ramBank = 0x00 ∧ t.ramEnabled = false ∧ t.ramMode = false ∧ t.latched = false ∧
        t.rtc.toList = [0, 0, 0, 0, 0] ∧ t.status = .running ∧ t.faultRecord = none ∧ t.saveImage = none ∧
        t.others = s.asDevice.toList ++ s.others ∧ t.response = .loaded ∧ t.pending = s.pending ∧
        t.timeAnswers = s.timeAnswers ∧ t.drawCount = s.drawCount) ∧
    (∀ f : Fault, loadDevice image save init = .error f →
      exec (.load image save init) s = .next { s with response := .fault f })

/-- LOAD without a save file, for each type of TYPE_TABLE: the variant, SRAM size, battery and clock that 44, section 1
gives the type (the B types' RAM is the spec's decision D19), SRAM all zero, and the epoch RTC_ZERO_INIT exactly where
clock-capable (decision D16). -/
def Obligations.LoadFollowsTheTypeTable : Prop :=
  ∀ (image : ByteString) (init : Seconds) (s : State)
    (type : Byte) (variant : Variant) (usesSize battery clock : Bool),
    (type, variant, usesSize, battery, clock) ∈
      [(0x00#8, Variant.a, false, false, false), (0x01#8, Variant.b, false, false, false),
       (0x02#8, Variant.b, true, false, false), (0x03#8, Variant.b, true, true, false),
       (0x0F#8, Variant.c, false, true, true), (0x10#8, Variant.c, true, true, true),
       (0x11#8, Variant.c, false, false, false), (0x12#8, Variant.c, true, false, false),
       (0x13#8, Variant.c, true, true, false)] →
    image.wf = true → Memory.read image.cells 0x147 = type →
    0x149 ≤ image.len → (usesSize = true → 0x14A ≤ image.len) →
    ∃ t c, exec (.load image .absent init) s = .next t ∧ t.config = some c ∧
      c.variant = variant ∧ c.rom = image ∧ c.battery = battery ∧ c.clockCapable = clock ∧
      c.sramSize = (if usesSize = false then 0
        else if Memory.read image.cells 0x149 = 1 then 0x800
        else if Memory.read image.cells 0x149 = 2 then 0x2000
        else if Memory.read image.cells 0x149 = 3 then 0x8000 else 0) ∧
      t.sram = [] ∧ t.rtcZero = (if clock = true then some init.toInt else none) ∧ t.status = .running

/-- 44 R129: any other type byte fails with the unsupported-type fault, naming the byte; no device is made. -/
def Obligations.LoadNamesAnUnsupportedType : Prop :=
  ∀ (image : ByteString) (save : SaveFile) (init : Seconds) (s : State),
    image.wf = true → 0x149 ≤ image.len →
    Memory.read image.cells 0x147 ∉ [0x00#8, 0x01#8, 0x02#8, 0x03#8, 0x0F#8, 0x10#8, 0x11#8, 0x12#8, 0x13#8] →
    exec (.load image save init) s =
      .next { s with response := .fault (.unsupportedCartridgeType (Memory.read image.cells 0x147)) }

/-- An image with fewer than 0x149 bytes is too small whatever its type, and one of exactly 0x149 bytes is too small for a
type that reads the size byte (44, section 1; the second is the spec's decision D20). -/
def Obligations.LoadRefusesASmallImage : Prop :=
  ∀ (image : ByteString) (save : SaveFile) (init : Seconds) (s : State),
    (image.len < 0x149 →
      exec (.load image save init) s = .next { s with response := .fault (.imageTooSmall image.len) }) ∧
    (image.wf = true → image.len = 0x149 →
      Memory.read image.cells 0x147 ∈ [0x02#8, 0x03#8, 0x10#8, 0x12#8, 0x13#8] →
      exec (.load image save init) s = .next { s with response := .fault (.imageTooSmall 0x149) })

/-- LOAD of a battery device restores the save file: in Variant B SRAM is the file, byte for byte; in Variant C SRAM is what
follows the first eight bytes, and a clock-capable device takes its epoch from those eight. A file of another length is
malformed, one that cannot be read is a read fault, and a device without a battery ignores the file (44, section 1;
decision D21; log 8). -/
def Obligations.LoadRestoresTheSaveFile : Prop :=
  ∀ (image b : ByteString) (init : Seconds) (s : State) (c : Configuration),
    image.wf = true → b.wf = true → readHeader image = .ok c →
    (c.battery = true → c.variant = .b → b.len = c.sramSize →
      ∃ t, exec (.load image (.bytes b) init) s = .next t ∧ t.config = some c ∧ t.rtcZero = none ∧
        ∀ i, t.sram.read i = Memory.read b.cells i) ∧
    (c.battery = true → c.variant = .c → b.len = 8 + c.sramSize →
      ∃ t, exec (.load image (.bytes b) init) s = .next t ∧ t.config = some c ∧
        t.rtcZero = (if c.clockCapable = true then some (decodeEpoch (firstEight b.cells)) else none) ∧
        ∀ i, t.sram.read i = Memory.read b.cells (8 + i)) ∧
    (c.battery = true → (c.variant = .b → b.len ≠ c.sramSize) → (c.variant = .c → b.len ≠ 8 + c.sramSize) →
      exec (.load image (.bytes b) init) s = .next { s with response := .fault (.saveFileMalformed b.len) }) ∧
    (c.battery = true →
      exec (.load image .unreadable init) s = .next { s with response := .fault (.saveFileIO .read) }) ∧
    (c.battery = false → ∀ save : SaveFile,
      exec (.load image save init) s = exec (.load image .absent init) s)

/-! ### FLUSH -/

/-- 44 R137: the save image of a battery device of Variant B is the `sram_size` bytes of SRAM, verbatim. -/
def Obligations.FlushWritesSramVerbatim : Prop :=
  ∀ (s : State) (c : Configuration),
    s.config = some c → s.status ≠ .flushed → c.battery = true → c.variant = .b →
    ∃ t image, exec (.flush .stored) s = .next t ∧ t.saveImage = some image ∧ t.status = .flushed ∧
      t.response = .done ∧ image.len = c.sramSize ∧ ∀ i, Memory.read image.cells i = s.sram.read i

/-- The save image of a battery device of Variant C is the epoch, or 0 where clock-incapable, as eight bytes, the most
significant first, and then SRAM (44, sections 2, with decision D18's range). -/
def Obligations.FlushWritesEpochThenSram : Prop :=
  ∀ (s : State) (c : Configuration) (e : Int),
    s.sramSound → s.config = some c → s.status ≠ .flushed → c.battery = true → c.variant = .c →
    (c.clockCapable = true → s.rtcZero = some e) → (c.clockCapable = false → e = 0) →
    -2 ^ 63 ≤ e → e ≤ 2 ^ 63 - 1 →
    ∃ t image, exec (.flush .stored) s = .next t ∧ t.saveImage = some image ∧ t.status = .flushed ∧
      t.response = .done ∧ image.wf = true ∧ image.len = 8 + c.sramSize ∧
      (∀ k, k < 8 → (Memory.read image.cells k).toNat = (e % 2 ^ 64).toNat / 2 ^ (8 * (7 - k)) % 256) ∧
      (∀ i, Memory.read image.cells (8 + i) = s.sram.read i)

/-- An epoch outside the signed 64-bit range, and a write that the host cannot do, are FLUSH's faults, the first before the
second; either ends the device, and a fault recorded before stays the recorded one (44, section 2; 60, sections 2 and 3;
decisions D18 and D23). -/
def Obligations.FlushFaultsEndTheDevice : Prop :=
  ∀ (s : State) (c : Configuration) (answer : HostWrite),
    s.config = some c → s.status ≠ .flushed → c.battery = true →
    (∀ e : Int, c.variant = .c → c.clockCapable = true → s.rtcZero = some e → (e < -2 ^ 63 ∨ 2 ^ 63 - 1 < e) →
      exec (.flush answer) s = .next { s with
        status := .flushed
        faultRecord := some (s.faultRecord.getD (.epochOutOfRange e))
        response := .fault (.epochOutOfRange e) }) ∧
    ((c.variant = .b ∨ c.variant = .c ∧ c.clockCapable = false ∨
        c.variant = .c ∧ ∃ e : Int, s.rtcZero = some e ∧ -2 ^ 63 ≤ e ∧ e ≤ 2 ^ 63 - 1) →
      exec (.flush .failed) s = .next { s with
        status := .flushed
        faultRecord := some (s.faultRecord.getD (.saveFileIO .write))
        response := .fault (.saveFileIO .write) })

/-- FLUSH is accepted in Running and in Faulted, with or without a battery, whatever the host answers. Its frame: it writes
no block state but the status (44, section 2; the save image and the record are what it hands out), and no other device;
without a battery it produces no image; and afterwards the device accepts nothing (decision D32). -/
def Obligations.FlushCompletesWithItsFrame : Prop :=
  ∀ (s : State) (answer : HostWrite),
    (∀ c, s.config = some c → s.status ≠ .flushed → ∃ t, exec (.flush answer) s = .next t) ∧
    ∀ t, exec (.flush answer) s = .next t →
      t.status = .flushed ∧ t.config = s.config ∧ t.romBank = s.romBank ∧ t.ramBank = s.ramBank ∧
      t.ramEnabled = s.ramEnabled ∧ t.ramMode = s.ramMode ∧ t.latched = s.latched ∧ t.rtc = s.rtc ∧
      t.rtcZero = s.rtcZero ∧ (∀ a, t.sram.read a = s.sram.read a) ∧ t.others = s.others ∧ t.pending = s.pending ∧
      t.timeAnswers = s.timeAnswers ∧ t.drawCount = s.drawCount ∧
      (∀ f, s.faultRecord = some f → t.faultRecord = some f) ∧
      (∀ c, s.config = some c → c.battery = false → t.saveImage = none ∧ t.faultRecord = s.faultRecord) ∧
      (∀ i : Instr, encode i ≠ none ∨ (∃ again, i = .flush again) → exec i t = .refused .deviceFlushed)

/-- The round trip (44, section 3): a battery device that FLUSHes to an image, and a LOAD of the same ROM with that image,
whatever RTC_ZERO_INIT is and in whatever state: the same configuration, byte-identical SRAM, the same epoch, and every
other register at its reset value. -/
def Obligations.FlushThenLoadRestores : Prop :=
  ∀ (s t u : State) (c : Configuration) (image : ByteString) (init : Seconds),
    s.Inv → s.config = some c → c.battery = true →
    exec (.flush .stored) s = .next t → t.saveImage = some image → t.response = .done →
    ∃ v, exec (.load c.rom (.bytes image) init) u = .next v ∧
      v.config = s.config ∧ v.sram = s.sram ∧ v.rtcZero = s.rtcZero ∧
      v.romBank = 0x01 ∧ v.ramBank = 0 ∧ v.ramEnabled = false ∧ v.ramMode = false ∧ v.latched = false ∧
      v.rtc = RtcRegs.reset ∧ v.status = .running

/-- Two clocks of one epoch that capture at one draw show the same time: equal seconds, minutes, hours and day count,
whatever the flags' other bits (44, section 3, the round trip's second half). -/
def Obligations.EqualEpochsShowEqualTime : Prop :=
  ∀ (s v : State) (c d : Configuration) (z : Int) (addr addr' : Addr),
    s.runs c → c.variant = .c → v.runs d → d.variant = .c →
    s.rtcZero = some z → v.rtcZero = some z → s.nextDraw = v.nextDraw → s.nextDraw - z < 512 * 86400 →
    s.latched = false → v.latched = false →
    s.rtc.flags.getLsbD 6 = false → v.rtc.flags.getLsbD 6 = false →
    ∃ s' v', exec (.cWrLatch addr 0x01) s = .next s' ∧ exec (.cWrLatch addr' 0x01) v = .next v' ∧
      s'.rtc.seconds = v'.rtc.seconds ∧ s'.rtc.minutes = v'.rtc.minutes ∧ s'.rtc.hours = v'.rtc.hours ∧
      s'.rtc.dayLow = v'.rtc.dayLow ∧ s'.rtc.flags.getLsbD 0 = v'.rtc.flags.getLsbD 0

/-- The epoch's eight bytes, read back, are the epoch, for every signed 64-bit epoch (44, section 2, the two codecs). -/
def Obligations.EpochBytesRoundTrip : Prop :=
  ∀ e : Int, -2 ^ 63 ≤ e → e ≤ 2 ^ 63 - 1 →
    (encodeEpoch e).length = 8 ∧ decodeEpoch (encodeEpoch e) = e

/-! ### Variant A -/

/-- 40 R78 and R80: in Variant A a save read returns 0 and a save write does nothing, for every address, value and state,
and every such word decodes to them. -/
def Obligations.VariantASaveWindowIsEmpty : Prop :=
  ∀ (s : State) (c : Configuration) (addr : Addr) (value : Byte),
    s.runs c → c.variant = .a →
    decode .a (busWord .rdSave addr value) = .aRdSave addr ∧
    exec (.aRdSave addr) s = .next { s with response := .byte 0x00 } ∧
    decode .a (busWord .wrSave addr value) = .aWrSave addr value ∧
    exec (.aWrSave addr value) s = .next { s with response := .done }

/-- The program window of Variant A: a read gives the ROM byte at the address itself, or the index fault past the image's
end; a control write does nothing, and every such word decodes to it (40, A.RD_ROM and A.WR_CTRL; decisions D7, D22). -/
def Obligations.VariantAProgramWindow : Prop :=
  ∀ (s : State) (c : Configuration) (addr : Addr) (value : Byte),
    s.runs c → c.variant = .a → addr.toNat < 0x8000 →
    (addr.toNat < c.rom.len →
      exec (.aRdRom addr) s = .next { s with response := .byte (Memory.read c.rom.cells addr.toNat) }) ∧
    (c.rom.len ≤ addr.toNat → exec (.aRdRom addr) s = .next (s.faultedWith (.romIndexOutOfRange addr.toNat))) ∧
    decode .a (busWord .wrCtrl addr value) = .aWrCtrl addr value ∧
    exec (.aWrCtrl addr value) s = .next { s with response := .done }

/-- No transaction of Variant A changes any state but the status, the record and the answer (40, the invariant of section
"Variant A", a derivation of the spec). -/
def Obligations.VariantAKeepsItsState : Prop :=
  ∀ (s t : State) (c : Configuration) (w : TWord) (rest : List Command),
    s.config = some c → c.variant = .a → s.pending = .word w :: rest → step s = .next t →
    t = { s with status := t.status, faultRecord := t.faultRecord, response := t.response, pending := rest }

/-! ### Program reads of Variants B and C -/

/-- The fixed window of B and C shows the first bank, whatever `rom_bank` and `ram_mode` hold, or the index fault past the
image's end (41 and 42, section 1; decision D7). -/
def Obligations.FixedWindowShowsTheFirstBank : Prop :=
  ∀ (s : State) (c : Configuration) (addr : Addr), s.runs c → addr.toNat < 0x4000 →
    (addr.toNat < c.rom.len →
      (c.variant = .b → exec (.bRdRom0 addr) s = .next { s with response := .byte (Memory.read c.rom.cells addr.toNat) }) ∧
      (c.variant = .c → exec (.cRdRom0 addr) s = .next { s with response := .byte (Memory.read c.rom.cells addr.toNat) })) ∧
    (c.rom.len ≤ addr.toNat →
      (c.variant = .b → exec (.bRdRom0 addr) s = .next (s.faultedWith (.romIndexOutOfRange addr.toNat))) ∧
      (c.variant = .c → exec (.cRdRom0 addr) s = .next (s.faultedWith (.romIndexOutOfRange addr.toNat))))

/-- The switchable window of B and C shows bank `rom_bank`: the ROM byte at `rom_bank * 0x4000 + addr[13:0]`, or the index
fault at or past the image's end (41 and 42, section 1; decision D7). -/
def Obligations.SwitchableWindowShowsTheSelectedBank : Prop :=
  ∀ (s : State) (c : Configuration) (addr : Addr) (i : Nat), s.runs c → 0x4000 ≤ addr.toNat → addr.toNat < 0x8000 →
    i = s.romBank.toNat * 0x4000 + (addr.toNat - 0x4000) →
    (i < c.rom.len →
      (c.variant = .b → exec (.bRdRomX addr) s = .next { s with response := .byte (Memory.read c.rom.cells i) }) ∧
      (c.variant = .c → exec (.cRdRomX addr) s = .next { s with response := .byte (Memory.read c.rom.cells i) })) ∧
    (c.rom.len ≤ i →
      (c.variant = .b → exec (.bRdRomX addr) s = .next (s.faultedWith (.romIndexOutOfRange i))) ∧
      (c.variant = .c → exec (.cRdRomX addr) s = .next (s.faultedWith (.romIndexOutOfRange i))))

/-! ### Variant B -/

/-- 41 R86: B.WR_RAMEN sets `ram_enabled` iff all eight bits of the value are 0x0A, and writes nothing else. -/
def Obligations.RamEnableComparesTheWholeByte : Prop :=
  ∀ (s : State) (c : Configuration) (addr : Addr) (value : Byte),
    s.runs c → c.variant = .b → addr.toNat < 0x2000 →
    decode .b (busWord .wrCtrl addr value) = .bWrRamEn addr value ∧
    (value = 0x0A → exec (.bWrRamEn addr value) s = .next { s with ramEnabled := true, response := .done }) ∧
    (value ≠ 0x0A → exec (.bWrRamEn addr value) s = .next { s with ramEnabled := false, response := .done })

/-- 41 R87: B.WR_ROMLO writes `max(value[4:0], 1)` to `rom_bank[4:0]` and leaves `rom_bank[6:5]` alone. -/
def Obligations.RomLowBitsAreCoerced : Prop :=
  ∀ (s : State) (c : Configuration) (addr : Addr) (value : Byte),
    s.runs c → c.variant = .b → 0x2000 ≤ addr.toNat → addr.toNat < 0x4000 →
    decode .b (busWord .wrCtrl addr value) = .bWrRomLo addr value ∧
    ∃ bank : BitVec 7, exec (.bWrRomLo addr value) s = .next { s with romBank := bank, response := .done } ∧
      bank.toNat = s.romBank.toNat / 32 * 32 + max (value.toNat % 32) 1

/-- 41 R88: B.WR_BANKHI writes `value[1:0]` to `rom_bank[6:5]` while `ram_mode` is 0 and to `ram_bank` while it is 1, never
to both. -/
def Obligations.BankHighIsRoutedByTheMode : Prop :=
  ∀ (s : State) (c : Configuration) (addr : Addr) (value : Byte),
    s.runs c → c.variant = .b → 0x4000 ≤ addr.toNat → addr.toNat < 0x6000 →
    decode .b (busWord .wrCtrl addr value) = .bWrBankHi addr value ∧
    (s.ramMode = false →
      ∃ bank : BitVec 7, exec (.bWrBankHi addr value) s = .next { s with romBank := bank, response := .done } ∧
        bank.toNat = value.toNat % 4 * 32 + s.romBank.toNat % 32) ∧
    (s.ramMode = true →
      ∃ bank : Byte, exec (.bWrBankHi addr value) s = .next { s with ramBank := bank, response := .done } ∧
        bank.toNat = value.toNat % 4)

/-- 41 R89: B.WR_MODE sets `ram_mode` to bit 0 of the value, and writes nothing else. -/
def Obligations.ModeIsBitZero : Prop :=
  ∀ (s : State) (c : Configuration) (addr : Addr) (value : Byte),
    s.runs c → c.variant = .b → 0x6000 ≤ addr.toNat → addr.toNat < 0x8000 →
    decode .b (busWord .wrCtrl addr value) = .bWrMode addr value ∧
    exec (.bWrMode addr value) s =
      .next { s with ramMode := decide (value.toNat % 2 = 1), response := .done }

/-- A save read of Variant B: 0 while the memory is absent or disabled, before any range check; else the SRAM byte of the
effective bank at `addr[12:0]`, or the index fault at or past `sram_size` (41, section 2; decisions D8, D9, D24). -/
def Obligations.VariantBSaveRead : Prop :=
  ∀ (s : State) (c : Configuration) (addr : Addr) (i : Nat),
    s.runs c → c.variant = .b →
    i = (if s.ramMode = true then s.ramBank.toNat else 0) * 0x2000 + addr.toNat % 0x2000 →
    (c.sramSize = 0 ∨ s.ramEnabled = false →
      exec (.bRdSave addr) s = .next { s with response := .byte 0x00 }) ∧
    (c.sramSize ≠ 0 → s.ramEnabled = true → i < c.sramSize →
      exec (.bRdSave addr) s = .next { s with response := .byte (s.sram.read i) }) ∧
    (c.sramSize ≠ 0 → s.ramEnabled = true → c.sramSize ≤ i →
      exec (.bRdSave addr) s = .next (s.faultedWith (.saveIndexOutOfRange i)))

/-- A save write of Variant B: nothing while the memory is absent or disabled; else the byte at the effective bank's
`addr[12:0]` takes the value and no other byte changes, or the index fault (41, section 4; decisions D8, D9, D24). -/
def Obligations.VariantBSaveWrite : Prop :=
  ∀ (s : State) (c : Configuration) (addr : Addr) (value : Byte) (i : Nat),
    s.runs c → c.variant = .b → s.sramSound →
    i = (if s.ramMode = true then s.ramBank.toNat else 0) * 0x2000 + addr.toNat % 0x2000 →
    (c.sramSize = 0 ∨ s.ramEnabled = false →
      exec (.bWrSave addr value) s = .next { s with response := .done }) ∧
    (c.sramSize ≠ 0 → s.ramEnabled = true → i < c.sramSize →
      ∃ m : Memory, exec (.bWrSave addr value) s = .next { s with sram := m, response := .done } ∧
        m.read i = value ∧ ∀ a, a ≠ i → m.read a = s.sram.read a) ∧
    (c.sramSize ≠ 0 → s.ramEnabled = true → c.sramSize ≤ i →
      exec (.bWrSave addr value) s = .next (s.faultedWith (.saveIndexOutOfRange i)))

/-- Every bank with low bits other than 0 can be selected in Variant B, by the two writes in either order, made in mode 0;
and every bank but 0 in Variant C, by one write (41 and 42, section 5, derivations of the spec). -/
def Obligations.EveryLegalBankIsReachable : Prop :=
  ∀ (s : State) (c : Configuration) (bank : BitVec 7) (lo hi : Byte),
    s.runs c → lo.toNat = bank.toNat % 32 → hi.toNat = bank.toNat / 32 →
    (c.variant = .b → s.ramMode = false → lo ≠ 0 →
      (∃ t u, exec (.bWrRomLo 0x2000 lo) s = .next t ∧ exec (.bWrBankHi 0x4000 hi) t = .next u ∧ u.romBank = bank) ∧
      (∃ t u, exec (.bWrBankHi 0x4000 hi) s = .next t ∧ exec (.bWrRomLo 0x2000 lo) t = .next u ∧ u.romBank = bank)) ∧
    (c.variant = .c → bank ≠ 0 →
      ∃ t, exec (.cWrRomB 0x2000 (bank.setWidth 8)) s = .next t ∧ t.romBank = bank)

/-! ### Variant C -/

/-- C.WR_RAMEN sets `ram_enabled` iff all eight bits of the value are 0x0A (42, section 3). -/
def Obligations.VariantCRamEnable : Prop :=
  ∀ (s : State) (c : Configuration) (addr : Addr) (value : Byte),
    s.runs c → c.variant = .c → addr.toNat < 0x2000 →
    decode .c (busWord .wrCtrl addr value) = .cWrRamEn addr value ∧
    (value = 0x0A → exec (.cWrRamEn addr value) s = .next { s with ramEnabled := true, response := .done }) ∧
    (value ≠ 0x0A → exec (.cWrRamEn addr value) s = .next { s with ramEnabled := false, response := .done })

/-- 42 R98: C.WR_ROMB writes `max(value[6:0], 1)` to `rom_bank`. -/
def Obligations.VariantCRomBank : Prop :=
  ∀ (s : State) (c : Configuration) (addr : Addr) (value : Byte),
    s.runs c → c.variant = .c → 0x2000 ≤ addr.toNat → addr.toNat < 0x4000 →
    decode .c (busWord .wrCtrl addr value) = .cWrRomB addr value ∧
    ∃ bank : BitVec 7, exec (.cWrRomB addr value) s = .next { s with romBank := bank, response := .done } ∧
      bank.toNat = max (value.toNat % 128) 1

/-- 42 R99: C.WR_RAMB stores the whole value in `ram_bank`, unmapped values too. -/
def Obligations.VariantCRamBank : Prop :=
  ∀ (s : State) (c : Configuration) (addr : Addr) (value : Byte),
    s.runs c → c.variant = .c → 0x4000 ≤ addr.toNat → addr.toNat < 0x6000 →
    decode .c (busWord .wrCtrl addr value) = .cWrRamB addr value ∧
    exec (.cWrRamB addr value) s = .next { s with ramBank := value, response := .done }

/-- A save read of Variant C: 0 while disabled, whatever is selected; banks 0 to 3 are SRAM, or 0 where absent; 8 to 12 are
the stored clock registers; any other selection faults (42, section 2; 43, section 5; decisions D8 to D11, D13). -/
def Obligations.VariantCSaveRead : Prop :=
  ∀ (s : State) (c : Configuration) (addr : Addr) (i : Nat),
    s.runs c → c.variant = .c → i = s.ramBank.toNat * 0x2000 + addr.toNat % 0x2000 →
    (s.ramEnabled = false → exec (.cRdSave addr) s = .next { s with response := .byte 0x00 }) ∧
    (s.ramEnabled = true → s.ramBank.toNat ≤ 3 → c.sramSize = 0 →
      exec (.cRdSave addr) s = .next { s with response := .byte 0x00 }) ∧
    (s.ramEnabled = true → s.ramBank.toNat ≤ 3 → c.sramSize ≠ 0 → i < c.sramSize →
      exec (.cRdSave addr) s = .next { s with response := .byte (s.sram.read i) }) ∧
    (s.ramEnabled = true → s.ramBank.toNat ≤ 3 → c.sramSize ≠ 0 → c.sramSize ≤ i →
      exec (.cRdSave addr) s = .next (s.faultedWith (.saveIndexOutOfRange i))) ∧
    (s.ramEnabled = true → 8 ≤ s.ramBank.toNat → s.ramBank.toNat ≤ 12 →
      ∃ v, s.rtc.toList[s.ramBank.toNat - 8]? = some v ∧
        exec (.cRdSave addr) s = .next { s with response := .byte v }) ∧
    (s.ramEnabled = true → (4 ≤ s.ramBank.toNat ∧ s.ramBank.toNat ≤ 7 ∨ 13 ≤ s.ramBank.toNat) →
      exec (.cRdSave addr) s = .next (s.faultedWith (.rtcRegisterUnmapped s.ramBank)))

/-- A save write of Variant C off the clock: nothing while disabled or absent; in banks 0 to 3 one SRAM byte, or the index
fault; on a selection that shows nothing, a fault (42, sections 2 and 4; decisions D8 to D11). -/
def Obligations.VariantCSaveWrite : Prop :=
  ∀ (s : State) (c : Configuration) (addr : Addr) (value : Byte) (i : Nat),
    s.runs c → c.variant = .c → s.sramSound → i = s.ramBank.toNat * 0x2000 + addr.toNat % 0x2000 →
    (s.ramEnabled = false → exec (.cWrSave addr value) s = .next { s with response := .done }) ∧
    (s.ramEnabled = true → s.ramBank.toNat ≤ 3 → c.sramSize = 0 →
      exec (.cWrSave addr value) s = .next { s with response := .done }) ∧
    (s.ramEnabled = true → s.ramBank.toNat ≤ 3 → c.sramSize ≠ 0 → i < c.sramSize →
      ∃ m : Memory, exec (.cWrSave addr value) s = .next { s with sram := m, response := .done } ∧
        m.read i = value ∧ ∀ a, a ≠ i → m.read a = s.sram.read a) ∧
    (s.ramEnabled = true → s.ramBank.toNat ≤ 3 → c.sramSize ≠ 0 → c.sramSize ≤ i →
      exec (.cWrSave addr value) s = .next (s.faultedWith (.saveIndexOutOfRange i))) ∧
    (s.ramEnabled = true → (4 ≤ s.ramBank.toNat ∧ s.ramBank.toNat ≤ 7 ∨ 13 ≤ s.ramBank.toNat) →
      exec (.cWrSave addr value) s = .next (s.faultedWith (.rtcRegisterUnmapped s.ramBank)))

/-- A clock-register write: all eight bits are stored in the selected register and in no other; then, with an epoch, one
draw is made and the epoch becomes the draw less what the registers stand for, each read unsigned; without one, nothing
more (43, sections 3 and 5; decisions D12, D18, D33). The draw is a free value: the statement holds for every one. -/
def Obligations.ClockWriteRebasesTheEpoch : Prop :=
  ∀ (s : State) (c : Configuration) (addr : Addr) (value : Byte),
    s.runs c → c.variant = .c → s.ramEnabled = true → 8 ≤ s.ramBank.toNat → s.ramBank.toNat ≤ 12 →
    ∃ g : RtcRegs, g.toList = s.rtc.toList.set (s.ramBank.toNat - 8) value ∧
      (s.rtcZero = none → exec (.cWrSave addr value) s = .next { s with rtc := g, response := .done }) ∧
      (∀ z, s.rtcZero = some z → exec (.cWrSave addr value) s = .next { s with
        rtc := g
        rtcZero := some (s.nextDraw - g.seconds.toNat - g.minutes.toNat * 60 - g.hours.toNat * 3600
          - ((g.flags.toNat % 2 * 256 + g.dayLow.toNat : Nat) : Int) * 86400)
        timeAnswers := s.timeAnswers.tail
        drawCount := s.drawCount + 1
        response := .done })

/-! ### The latch and the clock -/

/-- 43 R113: at the latch window a 0 clears `latched`, a 1 that finds it clear captures by `calc_rtc_reg` and sets it, and
any other value, or a 1 while latched, is a no-op; `ram_enabled` plays no part. -/
def Obligations.LatchIsEdgeTriggered : Prop :=
  ∀ (s : State) (c : Configuration) (addr : Addr) (value : Byte),
    s.runs c → c.variant = .c → 0x6000 ≤ addr.toNat → addr.toNat < 0x8000 →
    decode .c (busWord .wrCtrl addr value) = .cWrLatch addr value ∧
    (value = 0x00 → exec (.cWrLatch addr value) s = .next { s with latched := false, response := .done }) ∧
    (value = 0x01 → s.latched = false →
      exec (.cWrLatch addr value) s = .next { calcRtcReg s with latched := true, response := .done }) ∧
    (value ≠ 0x00 → (value = 0x01 → s.latched = true) →
      exec (.cWrLatch addr value) s = .next { s with response := .done })

/-- 43 R108 and R109: while halted, or with no epoch, the derivation changes nothing and makes no draw, so a capture sets
`latched` and nothing else. -/
def Obligations.HaltedOrUnclockedCaptureKeepsTheRegisters : Prop :=
  ∀ (s : State), (s.rtc.flags.getLsbD 6 = true ∨ s.rtcZero = none) →
    calcRtcReg s = s ∧
    ∀ (c : Configuration) (addr : Addr), s.runs c → c.variant = .c → s.latched = false →
      exec (.cWrLatch addr 0x01) s = .next { s with latched := true, response := .done }

/-- A capture with an epoch, not halted, below 512 days: one draw, and the registers are the elapsed seconds (0 where the
draw lies before the epoch) split into seconds, minutes, hours and the 9-bit day count; flags bits 7:1 and the epoch stay
(43, section 2; decision D14 keeps the bits). The draw is a free value: the statement holds for every one. -/
def Obligations.CaptureShowsTheElapsedTime : Prop :=
  ∀ (s : State) (c : Configuration) (addr : Addr) (z : Int) (e : Nat),
    s.runs c → c.variant = .c → s.latched = false → s.rtcZero = some z → s.rtc.flags.getLsbD 6 = false →
    (e : Int) = max 0 (s.nextDraw - z) → e / 86400 < 512 →
    ∃ g : RtcRegs, exec (.cWrLatch addr 0x01) s = .next { s with
        rtc := g
        latched := true
        timeAnswers := s.timeAnswers.tail
        drawCount := s.drawCount + 1
        response := .done } ∧
      g.seconds.toNat = e % 60 ∧ g.minutes.toNat = e / 60 % 60 ∧ g.hours.toNat = e / 3600 % 24 ∧
      g.flags.toNat % 2 * 256 + g.dayLow.toNat = e / 86400 ∧ g.flags.toNat / 2 = s.rtc.flags.toNat / 2

/-- A capture at 512 days or more: the day count wraps modulo 512, CARRY is set, flags bits 6:1 stay, and a second draw
rebases the epoch so that the registers as shown count from it (43, section 2; decisions D14, D17). Both draws are free
values: the statement holds for every pair. -/
def Obligations.CaptureOverflowSetsCarryAndRebases : Prop :=
  ∀ (s : State) (c : Configuration) (addr : Addr) (z : Int) (e : Nat),
    s.runs c → c.variant = .c → s.latched = false → s.rtcZero = some z → s.rtc.flags.getLsbD 6 = false →
    (e : Int) = s.nextDraw - z → 512 ≤ e / 86400 →
    ∃ g : RtcRegs, exec (.cWrLatch addr 0x01) s = .next { s with
        rtc := g
        latched := true
        rtcZero := some (s.afterDraw.nextDraw - ((e % (512 * 86400) : Nat) : Int))
        timeAnswers := s.timeAnswers.tail.tail
        drawCount := s.drawCount + 2
        response := .done } ∧
      g.seconds.toNat = e % 60 ∧ g.minutes.toNat = e / 60 % 60 ∧ g.hours.toNat = e / 3600 % 24 ∧
      g.flags.toNat % 2 * 256 + g.dayLow.toNat = e / 86400 % 512 ∧
      g.flags.getLsbD 7 = true ∧ ∀ k, 1 ≤ k → k ≤ 6 → g.flags.getLsbD k = s.rtc.flags.getLsbD k

/-- A clock register written at one draw and a capture at a later one: the capture shows what the registers stood for after
the write plus the seconds between the two draws, so a halted interval is not counted and an out-of-range value counts as
its number (43, section 6, derivations of the spec). Both draws are free values. -/
def Obligations.CaptureCountsFromTheWrite : Prop :=
  ∀ (s t : State) (c : Configuration) (addr addr' : Addr) (value : Byte) (e : Nat),
    s.runs c → c.variant = .c → s.ramEnabled = true → 8 ≤ s.ramBank.toNat → s.ramBank.toNat ≤ 12 →
    s.latched = false → s.rtcZero ≠ none → exec (.cWrSave addr value) s = .next t → t.rtc.flags.getLsbD 6 = false →
    (e : Int) = t.rtc.seconds.toNat + t.rtc.minutes.toNat * 60 + t.rtc.hours.toNat * 3600
      + ((t.rtc.flags.toNat % 2 * 256 + t.rtc.dayLow.toNat : Nat) : Int) * 86400
      + (s.afterDraw.nextDraw - s.nextDraw) →
    e / 86400 < 512 →
    ∃ u, exec (.cWrLatch addr' 0x01) t = .next u ∧ u.rtcZero = t.rtcZero ∧
      u.rtc.seconds.toNat = e % 60 ∧ u.rtc.minutes.toNat = e / 60 % 60 ∧ u.rtc.hours.toNat = e / 3600 % 24 ∧
      u.rtc.flags.toNat % 2 * 256 + u.rtc.dayLow.toNat = e / 86400

/-- Writing back what a register holds after a capture moves the epoch on by the seconds between the two draws: that time
is lost; where the environment's answers are monotone, the epoch never moves back (70, section 3, derivations of the
spec; decision D17's premise). Both draws are free values. -/
def Obligations.RegisterWriteLosesTheTimeSinceCapture : Prop :=
  ∀ (s t u : State) (c : Configuration) (addr addr' : Addr) (z : Int) (value : Byte),
    s.runs c → c.variant = .c → s.latched = false → s.rtcZero = some z → s.rtc.flags.getLsbD 6 = false →
    z ≤ s.nextDraw → s.nextDraw - z < 512 * 86400 →
    s.ramEnabled = true → 8 ≤ s.ramBank.toNat → s.ramBank.toNat ≤ 12 →
    exec (.cWrLatch addr 0x01) s = .next t → t.rtc.toList[s.ramBank.toNat - 8]? = some value →
    exec (.cWrSave addr' value) t = .next u →
    u.rtc = t.rtc ∧ u.rtcZero = some (z + (s.afterDraw.nextDraw - s.nextDraw)) ∧
    (s.MonotoneTime → 2 ≤ s.timeAnswers.length → ∀ z', u.rtcZero = some z' → z ≤ z')

/-- The pseudo-operation LATCH, whatever `latched` held, ends with a fresh capture: after its two words, `latched` is set
and the registers and the epoch are those of `calc_rtc_reg` (30, section 5, decision D3; 70, section 2). -/
def Obligations.LatchPseudoOperationCaptures : Prop :=
  ∀ (s : State) (c : Configuration) (rest : List Command),
    s.runs c → c.variant = .c → s.pending = pseudoLatch.map Command.word ++ rest →
    ∃ t u, step s = .next t ∧ step t = .next u ∧ u.latched = true ∧ u.pending = rest ∧
      u.rtc = (calcRtcReg s).rtc ∧ u.rtcZero = (calcRtcReg s).rtcZero ∧ u.drawCount = (calcRtcReg s).drawCount

/-! ### Faults -/

/-- The two illegal forms, in every variant: every program read and every control write with `addr[15] = 1` decodes to
them, and each enters its fault, naming the address (60, section 1; the first is the spec's decision D5). -/
def Obligations.IllegalFormsFault : Prop :=
  ∀ (s : State) (c : Configuration) (addr : Addr) (value : Byte), s.runs c → 0x8000 ≤ addr.toNat →
    decode c.variant (busWord .rdProg addr value) = .xRdProgOow addr ∧
    exec (.xRdProgOow addr) s = .next (s.faultedWith (.programAddressOutOfWindow addr)) ∧
    decode c.variant (busWord .wrCtrl addr value) = .xWrCtrlUnmapped addr value ∧
    exec (.xWrCtrlUnmapped addr value) s = .next (s.faultedWith (.unmappedControlAddress addr))

/-- A fault is precise: whatever word a Running device takes, if it ends Faulted then the status, the record, the report
and the queue are all that changed, and no draw was made (60, section 1, decision D23). -/
def Obligations.FaultsArePrecise : Prop :=
  ∀ (s t : State) (w : TWord) (rest : List Command) (f : Fault),
    s.status = .running → s.pending = .word w :: rest → step s = .next t → t.status = .faulted f →
    t = (s.setPending rest).faultedWith f

/-- A fault is sticky: a Faulted device takes no bus transaction and keeps its fault; it takes FLUSH, which makes it
Flushed and leaves the first fault recorded (60, sections 1 and 3, decision D23; log 5). -/
def Obligations.FaultedAcceptsOnlyFlush : Prop :=
  ∀ (s : State) (c : Configuration) (f : Fault) (i : Instr) (answer : HostWrite),
    s.config = some c → s.status = .faulted f →
    (encode i ≠ none → exec i s = .refused .deviceFaulted) ∧
    ∃ t, exec (.flush answer) s = .next t ∧ t.status = .flushed ∧ (s.faultRecord = some f → t.faultRecord = some f)

/-! ### Frames -/

/-- The read forms, Variant A's writes and the illegal forms change nothing but the answer, and on a fault the status and
the record; every byte of SRAM reads as before (20, section 3). -/
def Obligations.ReadsAndIllegalFormsFrame : Prop :=
  ∀ (s t : State) (addr : Addr) (value : Byte) (i : Instr),
    i ∈ [.aRdRom addr, .aRdSave addr, .aWrCtrl addr value, .aWrSave addr value, .bRdRom0 addr, .bRdRomX addr,
      .bRdSave addr, .cRdRom0 addr, .cRdRomX addr, .cRdSave addr, .xRdProgOow addr, .xWrCtrlUnmapped addr value] →
    exec i s = .next t →
    t = { s with status := t.status, faultRecord := t.faultRecord, response := t.response } ∧
    (∀ a, t.sram.read a = s.sram.read a) ∧
    (t.status = s.status ∧ t.faultRecord = s.faultRecord ∨
      ∃ f, t.status = .faulted f ∧ t.faultRecord = some f ∧ t.response = .fault f)

/-- The control writes of B and C: each changes the registers its rule names and the answer, and nothing else; every byte
of SRAM reads as before (41 and 42, sections 3; 42, section 5; 43, section 4). -/
def Obligations.ControlWritesFrame : Prop :=
  ∀ (s t : State) (addr : Addr) (value : Byte),
    (exec (.bWrRamEn addr value) s = .next t ∨ exec (.cWrRamEn addr value) s = .next t →
      t = { s with ramEnabled := t.ramEnabled, response := .done } ∧ ∀ a, t.sram.read a = s.sram.read a) ∧
    (exec (.bWrRomLo addr value) s = .next t ∨ exec (.cWrRomB addr value) s = .next t →
      t = { s with romBank := t.romBank, response := .done } ∧ ∀ a, t.sram.read a = s.sram.read a) ∧
    (exec (.bWrBankHi addr value) s = .next t →
      t = { s with romBank := t.romBank, ramBank := t.ramBank, response := .done } ∧
      (t.romBank = s.romBank ∨ t.ramBank = s.ramBank) ∧ t.romBank &&& 0x1F#7 = s.romBank &&& 0x1F#7 ∧
      ∀ a, t.sram.read a = s.sram.read a) ∧
    (exec (.bWrMode addr value) s = .next t →
      t = { s with ramMode := t.ramMode, response := .done } ∧ ∀ a, t.sram.read a = s.sram.read a) ∧
    (exec (.cWrRamB addr value) s = .next t →
      t = { s with ramBank := t.ramBank, response := .done } ∧ ∀ a, t.sram.read a = s.sram.read a) ∧
    (exec (.cWrLatch addr value) s = .next t →
      t = { s with latched := t.latched, rtc := t.rtc, rtcZero := t.rtcZero, timeAnswers := t.timeAnswers,
                   drawCount := t.drawCount, response := .done } ∧
      t.rtcZero.isSome = s.rtcZero.isSome ∧ ∀ a, t.sram.read a = s.sram.read a)

/-- The save writes of B and C. The address stored to is the meaning's own: `saveIndexB` on the state before, or the SRAM
index that `saveTargetC` gives; every other byte reads as before, and every byte where the form stores none. Of the
registers only the clock register selected, the epoch and the draws can change, and those only in Variant C where a clock
register is selected (41 and 42, sections 4). -/
def Obligations.SaveWritesFrame : Prop :=
  ∀ (s t : State) (c : Configuration) (addr : Addr) (value : Byte), s.config = some c →
    (exec (.bWrSave addr value) s = .next t →
      t = { s with sram := t.sram, status := t.status, faultRecord := t.faultRecord, response := t.response } ∧
      (∀ a, a ≠ saveIndexB s addr → t.sram.read a = s.sram.read a) ∧
      (s.ramEnabled = false ∨ c.sramSize = 0 ∨ t.status ≠ .running → ∀ a, t.sram.read a = s.sram.read a)) ∧
    (exec (.cWrSave addr value) s = .next t →
      t = { s with sram := t.sram, rtc := t.rtc, rtcZero := t.rtcZero, timeAnswers := t.timeAnswers,
                   drawCount := t.drawCount, status := t.status, faultRecord := t.faultRecord,
                   response := t.response } ∧
      (∀ i, saveTargetC c s.ramBank addr = .sramAt i → ∀ a, a ≠ i → t.sram.read a = s.sram.read a) ∧
      (s.ramEnabled = false ∨ (∀ i, saveTargetC c s.ramBank addr ≠ .sramAt i) ∨ t.status ≠ .running →
        ∀ a, t.sram.read a = s.sram.read a) ∧
      (∀ r, saveTargetC c s.ramBank addr = .rtcReg r → ∀ r', r' ≠ r → t.rtc.get r' = s.rtc.get r') ∧
      (s.ramEnabled = false ∨ (∀ r, saveTargetC c s.ramBank addr ≠ .rtcReg r) →
        t.rtc = s.rtc ∧ t.rtcZero = s.rtcZero ∧ t.timeAnswers = s.timeAnswers ∧ t.drawCount = s.drawCount))

/-- Draws: only a latch capture and a clock-register write make any, at most two and at most one; a latch write that does
not capture, or captures while halted or with no epoch, makes none, and neither does a save write that is disabled, that
selects no clock register, or that finds no epoch. Where none is made the Time Source's answers stay too (43, section 6). -/
def Obligations.OnlyTheClockDrawsTime : Prop :=
  ∀ (s t : State) (i : Instr), exec i s = .next t →
    ((∀ addr value, i ≠ .cWrLatch addr value) → (∀ addr value, i ≠ .cWrSave addr value) →
      t.drawCount = s.drawCount ∧ t.timeAnswers = s.timeAnswers) ∧
    (∀ addr value, i = .cWrLatch addr value →
      s.drawCount ≤ t.drawCount ∧ t.drawCount ≤ s.drawCount + 2 ∧
      (value ≠ 0x01 ∨ s.latched = true ∨ s.rtcZero = none ∨ s.rtc.flags.getLsbD 6 = true →
        t.drawCount = s.drawCount ∧ t.timeAnswers = s.timeAnswers)) ∧
    (∀ addr value, i = .cWrSave addr value →
      s.drawCount ≤ t.drawCount ∧ t.drawCount ≤ s.drawCount + 1 ∧
      (s.ramEnabled = false ∨ s.ramBank.toNat < 8 ∨ 12 < s.ramBank.toNat ∨ s.rtcZero = none →
        t.drawCount = s.drawCount ∧ t.timeAnswers = s.timeAnswers))

/-- The configuration is fixed (00, section 4; 20, section 2; 70, section 1; 60, section 5). A word, a FLUSH and an idle
step change neither it, and with it the program image, nor any other device. Whatever the step, every device that is not at
hand is there afterwards as it was, and the configurations afterwards are those before, and one more only where a LOAD was
the next command. The configuration is an argument of the step relation: the step of a device of configuration `c` is
`stepUnder c`, in which the state's own field plays no part (log 3: the field is the model's, for the host's type of
`step`). -/
def Obligations.ConfigurationIsFixed : Prop :=
  ∀ (s t : State), step s = .next t →
    ((∀ image save init rest, s.pending ≠ .load image save init :: rest) → (∀ n rest, s.pending ≠ .select n :: rest) →
      t.config = s.config ∧ t.others = s.others) ∧
    (∀ d ∈ s.others, d ∈ t.devices) ∧
    (∃ fresh : List Configuration, t.configurations.Perm (fresh ++ s.configurations) ∧ fresh.length ≤ 1 ∧
      ((∀ image save init rest, s.pending ≠ .load image save init :: rest) → fresh = [])) ∧
    (∀ c, s.config = some c → ∀ own : Option Configuration, stepUnder c { s with config := own } = .next t)

/-! ### Rules over every step -/

/-- The clock registers change by themselves never: a step that changes those at hand takes a LOAD, a capture, or an enabled
save write with a clock register selected (43, section 6, derivations of the spec), or the environment turns to another
device, whose own registers then show (log 4). -/
def Obligations.ClockRegistersMoveOnlyOnCaptureOrWrite : Prop :=
  ∀ (s t : State), step s = .next t → t.rtc ≠ s.rtc →
    (∃ image save init rest, s.pending = .load image save init :: rest) ∨
    (∃ n rest d, s.pending = .select n :: rest ∧ s.others[n]? = some d ∧ t.rtc = d.rtc) ∨
    ∃ c w rest, s.runs c ∧ c.variant = .c ∧ s.pending = .word w :: rest ∧
      ((wordOp w = .wrCtrl ∧ (wordAddr w).toNat / 0x2000 = 3 ∧ wordData w = 0x01 ∧ s.latched = false ∧
          s.rtcZero ≠ none ∧ s.rtc.flags.getLsbD 6 = false) ∨
        (wordOp w = .wrSave ∧ s.ramEnabled = true ∧ 8 ≤ s.ramBank.toNat ∧ s.ramBank.toNat ≤ 12))

/-- No rule of the block clears CARRY: a step after which it is clear at hand, where it was set, takes a LOAD, or an enabled
save write of a value with bit 7 clear to the flags register (43, section 6, a derivation of the spec), or the environment
turns to another device, whose own flags then show (log 4). -/
def Obligations.OnlyAWriteOrLoadClearsTheCarry : Prop :=
  ∀ (s t : State), step s = .next t → s.rtc.flags.getLsbD 7 = true → t.rtc.flags.getLsbD 7 = false →
    (∃ image save init rest, s.pending = .load image save init :: rest) ∨
    (∃ n rest d, s.pending = .select n :: rest ∧ s.others[n]? = some d ∧ t.rtc = d.rtc) ∨
    ∃ c w rest, s.runs c ∧ c.variant = .c ∧ s.pending = .word w :: rest ∧ wordOp w = .wrSave ∧
      s.ramEnabled = true ∧ s.ramBank = 0x0C ∧ (wordData w).getLsbD 7 = false

/-- The status moves one way: a step keeps it, or a word moves it from Running to Faulted, or FLUSH to Flushed, or a LOAD
makes a new device, which is Running (10, section 6; 60, section 1, decisions D23 and D32), or the environment turns to
another device, whose own status then shows (log 4). -/
def Obligations.StatusMovesOneWay : Prop :=
  ∀ (s t : State), step s = .next t →
    t.status = s.status ∨
    (∃ w rest f, s.pending = .word w :: rest ∧ s.status = .running ∧ t.status = .faulted f) ∨
    (∃ answer rest, s.pending = .flush answer :: rest ∧ s.status ≠ .flushed ∧ t.status = .flushed) ∨
    (∃ image save init rest, s.pending = .load image save init :: rest ∧ t.status = .running) ∨
    (∃ n rest d, s.pending = .select n :: rest ∧ s.others[n]? = some d ∧ t.status = d.status)

/-! ### Invariants that every step keeps -/

/-- Every step keeps SRAM, of every device, in its canonical form and within `sram_size` (10, section 5; 60, section 1: no
primitive is called outside its range). -/
def Obligations.StepKeepsSramSound : Prop :=
  ∀ s t : State, s.everyDevice State.sramSound → step s = .next t → t.everyDevice State.sramSound

/-- Every step keeps the bank selectors of every device legal: `rom_bank` is never 0, in Variant B its low five bits are
never 0, and there `ram_bank` has two bits (10, section 3; a derivation of the spec). -/
def Obligations.StepKeepsBankSelectorsLegal : Prop :=
  ∀ s t : State, s.everyDevice State.banksSound → step s = .next t → t.everyDevice State.banksSound

/-- Every step keeps the whole invariant, of every device: the configuration is what its own image gives, SRAM and the
selectors are legal, `rtc_zero` is set iff the device is clock-capable, the recorded fault fits the status, and a register
the variant lacks keeps its reset value (10; 44, section 1; 60, section 1; log 15 for the last). -/
def Obligations.StepKeepsTheInvariant : Prop :=
  ∀ s t : State, s.Inv → step s = .next t → t.Inv
end

