-- ==== Sys2Proof/Laws/Memory.lean ====
section
/-! SUPPORT. The laws of memory: a read after a write, and that every memory operation keeps the canonical form. -/

namespace Sys2Proof.Machine

/-! ### The canonical form -/

@[simp] theorem Memory.wf_nil : Memory.wf [] = true := rfl

theorem Memory.wf_cons (c : Host.Cell) (m : Memory) :
    Memory.wf (c :: m) = true ↔ c.2 ≠ 0 ∧ (∀ d ∈ m, c.1 < d.1) ∧ Memory.wf m = true := by
  simp [Memory.wf, cellsWf, and_assoc]

@[simp] theorem Memory.below_nil (n : Nat) : Memory.below n [] = true := rfl

theorem Memory.below_iff (n : Nat) (m : Memory) : Memory.below n m = true ↔ ∀ d ∈ m, d.1 < n := by
  simp [Memory.below]

@[simp] theorem Memory.write_nil (a : Nat) (v : Byte) : Memory.write [] a v = Memory.cell a v := rfl

theorem Memory.mem_cell {a : Nat} {v : Byte} {d : Host.Cell} (h : d ∈ Memory.cell a v) : d = (a, v) := by
  unfold Memory.cell at h
  split at h <;> simp_all

/-- A write lists no address but the old ones and its own. -/
theorem Memory.mem_write {m : Memory} {a : Nat} {v : Byte} {d : Host.Cell} (h : d ∈ Memory.write m a v) :
    d ∈ m ∨ d = (a, v) := by
  induction m with
  | nil => exact .inr (Memory.mem_cell h)
  | cons c m ih =>
    simp only [Memory.write] at h
    split at h
    · rcases List.mem_append.1 h with h | h
      · exact .inr (Memory.mem_cell h)
      · exact .inl h
    · split at h
      · rcases List.mem_append.1 h with h | h
        · exact .inr (Memory.mem_cell h)
        · exact .inl (List.mem_cons_of_mem _ h)
      · rcases List.mem_cons.1 h with h | h
        · exact .inl (h ▸ List.mem_cons_self)
        · exact (ih h).imp_left (List.mem_cons_of_mem _)

theorem Memory.wf_cell_append {a : Nat} {v : Byte} {m : Memory} (hm : Memory.wf m = true) (h : ∀ d ∈ m, a < d.1) :
    Memory.wf (Memory.cell a v ++ m) = true := by
  unfold Memory.cell
  split
  · simpa using hm
  · exact (Memory.wf_cons _ _).2 ⟨‹_›, h, hm⟩

theorem Memory.wf_write {m : Memory} (hm : Memory.wf m = true) (a : Nat) (v : Byte) :
    Memory.wf (Memory.write m a v) = true := by
  induction m with
  | nil => simpa using Memory.wf_cell_append (a := a) (v := v) Memory.wf_nil (by simp)
  | cons c m ih =>
    obtain ⟨h0, hlt, hwf⟩ := (Memory.wf_cons c m).1 hm
    simp only [Memory.write]
    split
    · rename_i hac
      refine Memory.wf_cell_append hm fun d hd => ?_
      rcases List.mem_cons.1 hd with rfl | hd
      · exact hac
      · exact hac.trans (hlt d hd)
    · split
      · rename_i hac
        exact Memory.wf_cell_append hwf fun d hd => hac ▸ hlt d hd
      · refine (Memory.wf_cons _ _).2 ⟨h0, fun d hd => ?_, ih hwf⟩
        rcases Memory.mem_write hd with hd | rfl
        · exact hlt d hd
        · show c.1 < a
          omega

theorem Memory.below_write {m : Memory} {n a : Nat} {v : Byte} (hm : Memory.below n m = true) (h : a < n) :
    Memory.below n (Memory.write m a v) = true := by
  rw [Memory.below_iff] at *
  intro d hd
  rcases Memory.mem_write hd with hd | rfl
  · exact hm d hd
  · exact h

/-! ### Read after write -/

@[simp] theorem Memory.read_nil (a : Nat) : Memory.read [] a = 0 := rfl

theorem Memory.read_cons (c : Host.Cell) (m : Memory) (a : Nat) :
    Memory.read (c :: m) a = if c.1 = a then c.2 else Memory.read m a := rfl

/-- An address that is not listed reads as 0x00. -/
theorem Memory.read_unlisted {m : Memory} {a : Nat} (h : ∀ d ∈ m, d.1 ≠ a) : Memory.read m a = 0 := by
  induction m with
  | nil => rfl
  | cons c m ih =>
    rw [Memory.read_cons, if_neg (h c List.mem_cons_self), ih fun d hd => h d (List.mem_cons_of_mem _ hd)]

theorem Memory.read_cell_append (a b : Nat) (v : Byte) (m : Memory) (h : ∀ d ∈ m, d.1 ≠ a) :
    Memory.read (Memory.cell a v ++ m) b = if b = a then v else Memory.read m b := by
  unfold Memory.cell
  split
  · split
    · subst_vars
      simpa using Memory.read_unlisted h
    · simp
  · simp only [List.cons_append, List.nil_append, Memory.read_cons, eq_comm (a := a)]

/-- A write leaves every other address alone, whatever the memory's form. -/
theorem Memory.read_write_other {m : Memory} {a b : Nat} {v : Byte} (h : b ≠ a) :
    Memory.read (Memory.write m a v) b = Memory.read m b := by
  have hc : ∀ m : Memory, Memory.read (Memory.cell a v ++ m) b = Memory.read m b := fun m => by
    unfold Memory.cell
    split
    · rfl
    · simp [Memory.read_cons, h.symm]
  induction m with
  | nil => simpa using hc []
  | cons c m ih =>
    simp only [Memory.write]
    split
    · exact hc _
    · split
      · rename_i hac
        rw [hc, Memory.read_cons, if_neg (by omega)]
      · rw [Memory.read_cons, Memory.read_cons, ih]

/-- A read after a write to the same address gives the byte written. -/
theorem Memory.read_write_same {m : Memory} (hm : Memory.wf m = true) (a : Nat) (v : Byte) :
    Memory.read (Memory.write m a v) a = v := by
  induction m with
  | nil => simpa using Memory.read_cell_append a a v [] (by simp)
  | cons c m ih =>
    obtain ⟨-, hlt, hwf⟩ := (Memory.wf_cons c m).1 hm
    simp only [Memory.write]
    split
    · rename_i hac
      rw [Memory.read_cell_append, if_pos rfl]
      intro d hd
      rcases List.mem_cons.1 hd with rfl | hd
      · omega
      · have := hlt d hd
        omega
    · split
      · rename_i hac
        rw [Memory.read_cell_append, if_pos rfl]
        intro d hd
        have := hlt d hd
        omega
      · rename_i h2
        rw [Memory.read_cons, if_neg (Ne.symm h2), ih hwf]

theorem Memory.read_write {m : Memory} (hm : Memory.wf m = true) (a b : Nat) (v : Byte) :
    Memory.read (Memory.write m a v) b = if b = a then v else Memory.read m b := by
  split
  · subst_vars
    exact Memory.read_write_same hm _ v
  · exact Memory.read_write_other ‹_›

/-- An address at or past the bound of a memory reads as 0x00. -/
theorem Memory.read_past {m : Memory} {n a : Nat} (hm : Memory.below n m = true) (h : n ≤ a) : Memory.read m a = 0 :=
  Memory.read_unlisted fun d hd => by
    have := (Memory.below_iff n m).1 hm d hd
    omega

/-- Two memories in canonical form that read alike everywhere are equal data. -/
theorem Memory.ext_read {m m' : Memory} (hm : Memory.wf m = true) (hm' : Memory.wf m' = true)
    (h : ∀ a, Memory.read m a = Memory.read m' a) : m = m' := by
  induction m generalizing m' with
  | nil =>
    cases m' with
    | nil => rfl
    | cons d m' =>
      have := h d.1
      rw [Memory.read_cons, if_pos rfl] at this
      exact absurd this.symm ((Memory.wf_cons d m').1 hm').1
  | cons c m ih =>
    obtain ⟨hc0, hclt, hcwf⟩ := (Memory.wf_cons c m).1 hm
    cases m' with
    | nil =>
      have := h c.1
      rw [Memory.read_cons, if_pos rfl] at this
      exact absurd this hc0
    | cons d m' =>
      obtain ⟨hd0, hdlt, hdwf⟩ := (Memory.wf_cons d m').1 hm'
      have hcm : ∀ a, a ≤ c.1 → Memory.read m a = 0 := fun a ha =>
        Memory.read_unlisted fun e he => by have := hclt e he; omega
      have hdm : ∀ a, a ≤ d.1 → Memory.read m' a = 0 := fun a ha =>
        Memory.read_unlisted fun e he => by have := hdlt e he; omega
      have key : c.1 = d.1 := by
        rcases Nat.lt_trichotomy c.1 d.1 with hlt | heq | hlt
        · have := h c.1
          rw [Memory.read_cons, if_pos rfl, Memory.read_cons, if_neg (by omega), hdm _ (by omega)] at this
          exact absurd this hc0
        · exact heq
        · have := h d.1
          rw [Memory.read_cons, if_neg (by omega), Memory.read_cons, if_pos rfl, hcm _ (by omega)] at this
          exact absurd this.symm hd0
      have hval : c.2 = d.2 := by
        have := h c.1
        rwa [Memory.read_cons, if_pos rfl, Memory.read_cons, if_pos key.symm] at this
      have hrest : m = m' := by
        refine ih hcwf hdwf fun a => ?_
        by_cases hac : c.1 = a
        · rw [hcm a (by omega), hdm a (by omega)]
        · have := h a
          rwa [Memory.read_cons, if_neg hac, Memory.read_cons, if_neg (by omega)] at this
      rw [hrest, Prod.ext key hval]

/-! ### Several bytes -/

theorem Memory.wf_writeBytes {m : Memory} (hm : Memory.wf m = true) (a : Nat) (bs : List Byte) :
    Memory.wf (Memory.writeBytes m a bs) = true := by
  induction bs generalizing m a with
  | nil => exact hm
  | cons b bs ih => exact ih (Memory.wf_write hm a b) (a + 1)

theorem Memory.below_writeBytes {m : Memory} {n : Nat} (hm : Memory.below n m = true) (a : Nat) (bs : List Byte)
    (h : a + bs.length ≤ n) : Memory.below n (Memory.writeBytes m a bs) = true := by
  induction bs generalizing m a with
  | nil => exact hm
  | cons b bs ih =>
    simp only [List.length_cons] at h
    exact ih (Memory.below_write hm (by omega)) (a + 1) (by omega)

/-- What a run of bytes leaves: each of them at its place, every other address as it was. -/
theorem Memory.read_writeBytes {m : Memory} (hm : Memory.wf m = true) (a : Nat) (bs : List Byte) (b : Nat) :
    Memory.read (Memory.writeBytes m a bs) b =
      if a ≤ b ∧ b < a + bs.length then bs.getD (b - a) 0 else Memory.read m b := by
  induction bs generalizing m a with
  | nil =>
    rw [if_neg (by simp)]
    rfl
  | cons v bs ih =>
    simp only [Memory.writeBytes, List.length_cons]
    rw [ih (Memory.wf_write hm a v), Memory.read_write hm]
    by_cases hb : b = a
    · subst hb
      rw [if_neg (by omega), if_pos rfl, if_pos (by omega)]
      simp
    · by_cases h : a + 1 ≤ b ∧ b < a + 1 + bs.length
      · rw [if_pos h, if_pos (by omega), show b - a = (b - (a + 1)) + 1 by omega]
        simp
      · rw [if_neg h, if_neg hb, if_neg (by omega)]

/-! ### Byte strings and save images -/

theorem memoryOf_sound (b : ByteString) :
    Memory.wf (memoryOf b) = true ∧ Memory.below b.len (memoryOf b) = true := by
  have : ∀ cs : List Host.Cell, (∀ c ∈ cs, c.1 < b.len) →
      Memory.wf (cs.foldr (fun c m => Memory.write m c.1 c.2) []) = true ∧
      Memory.below b.len (cs.foldr (fun c m => Memory.write m c.1 c.2) []) = true := by
    intro cs h
    induction cs with
    | nil => exact ⟨rfl, rfl⟩
    | cons c cs ih =>
      have hcs := ih fun d hd => h d (List.mem_cons_of_mem _ hd)
      exact ⟨Memory.wf_write hcs.1 _ _, Memory.below_write hcs.2 (h c List.mem_cons_self)⟩
  exact this _ fun c hc => by simpa using (List.mem_filter.1 hc).2

/-- The canonical form of a byte string that is in canonical form is itself. -/
theorem memoryOf_wf {b : ByteString} (h : b.wf = true) : memoryOf b = b.cells := by
  obtain ⟨hwf, hlt⟩ : Memory.wf b.cells = true ∧ ∀ c ∈ b.cells, c.1 < b.len := by
    simpa [ByteString.wf, Memory.wf] using h
  have hf : b.cells.filter (fun c => decide (c.1 < b.len)) = b.cells :=
    List.filter_eq_self.2 fun c hc => by simpa using hlt c hc
  have key : ∀ m : Memory, Memory.wf m = true → m.foldr (fun c m => Memory.write m c.1 c.2) [] = m := by
    intro m hm
    induction m with
    | nil => rfl
    | cons c m ih =>
      obtain ⟨h0, hc, hm⟩ := (Memory.wf_cons c m).1 hm
      rw [List.foldr_cons, ih hm]
      cases m with
      | nil => exact if_neg h0
      | cons d m =>
        have h1 : Memory.cell c.1 c.2 = [c] := if_neg h0
        rw [Memory.write, if_pos (hc d List.mem_cons_self), h1]
        rfl
  rw [memoryOf, hf]
  exact key _ hwf

@[simp] theorem normalBytes_len (b : ByteString) : (normalBytes b).len = b.len := rfl

theorem normalBytes_wf {b : ByteString} (h : b.wf = true) : normalBytes b = b := by
  rw [normalBytes, memoryOf_wf h]

/-- The canonical form is in canonical form. -/
theorem wf_normalBytes (b : ByteString) : (normalBytes b).wf = true := by
  obtain ⟨h1, h2⟩ := memoryOf_sound b
  exact Bool.and_eq_true_iff.2 ⟨h1, h2⟩

theorem Memory.wf_behindEpoch {m : Memory} (hm : Memory.wf m = true) : Memory.wf (behindEpoch m) = true := by
  induction m with
  | nil => rfl
  | cons c m ih =>
    obtain ⟨h0, hlt, hwf⟩ := (Memory.wf_cons c m).1 hm
    refine (Memory.wf_cons _ _).2 ⟨h0, fun d hd => ?_, ih hwf⟩
    obtain ⟨e, he, rfl⟩ := List.mem_map.1 hd
    have := hlt e he
    show c.1 + 8 < e.1 + 8
    omega

theorem Memory.below_behindEpoch {m : Memory} {n : Nat} (hm : Memory.below n m = true) :
    Memory.below (8 + n) (behindEpoch m) = true := by
  rw [Memory.below_iff] at *
  intro d hd
  obtain ⟨e, he, rfl⟩ := List.mem_map.1 hd
  have := hm e he
  show e.1 + 8 < 8 + n
  omega

theorem Memory.read_behindEpoch (m : Memory) (i : Nat) : Memory.read (behindEpoch m) (i + 8) = Memory.read m i := by
  induction m with
  | nil => rfl
  | cons c m ih =>
    show (if c.1 + 8 = i + 8 then c.2 else Memory.read (behindEpoch m) (i + 8)) = _
    rw [ih, Memory.read_cons]
    simp only [Nat.add_right_cancel_iff]

theorem Memory.read_afterEpoch (m : Memory) (i : Nat) : Memory.read (afterEpoch m) i = Memory.read m (i + 8) := by
  induction m with
  | nil => rfl
  | cons c m ih =>
    unfold afterEpoch at *
    by_cases h : 8 ≤ c.1
    · rw [List.filter_cons_of_pos (by simpa using h), List.map_cons, Memory.read_cons, Memory.read_cons, ih]
      simp only [show c.1 - 8 = i ↔ c.1 = i + 8 by omega]
    · rw [List.filter_cons_of_neg (by simpa using h), ih, Memory.read_cons, if_neg (by omega)]

theorem Memory.mem_afterEpoch {m : Memory} {d : Host.Cell} (h : d ∈ afterEpoch m) : (d.1 + 8, d.2) ∈ m := by
  obtain ⟨e, he, rfl⟩ := List.mem_map.1 h
  obtain ⟨hm, h8⟩ := List.mem_filter.1 he
  have : 8 ≤ e.1 := by simpa using h8
  rwa [show (e.1 - 8 + 8, e.2) = e from Prod.ext (by simp; omega) rfl]

theorem Memory.wf_afterEpoch {m : Memory} (hm : Memory.wf m = true) : Memory.wf (afterEpoch m) = true := by
  induction m with
  | nil => rfl
  | cons c m ih =>
    obtain ⟨h0, hlt, hwf⟩ := (Memory.wf_cons c m).1 hm
    have hrec := ih hwf
    by_cases h : 8 ≤ c.1
    · have : afterEpoch (c :: m) = (c.1 - 8, c.2) :: afterEpoch m := by simp [afterEpoch, h]
      rw [this]
      refine (Memory.wf_cons _ _).2 ⟨h0, fun d hd => ?_, hrec⟩
      have := hlt _ (Memory.mem_afterEpoch hd)
      simp only at this ⊢
      omega
    · have : afterEpoch (c :: m) = afterEpoch m := by simp [afterEpoch, h]
      rwa [this]

theorem Memory.below_afterEpoch {m : Memory} {n : Nat} (hm : Memory.below (8 + n) m = true) :
    Memory.below n (afterEpoch m) = true := by
  rw [Memory.below_iff] at *
  intro d hd
  have := hm _ (Memory.mem_afterEpoch hd)
  simp only at this
  omega

end Sys2Proof.Machine
end

