-- ==== Sys2Proof/Laws/State.lean ====
section
/-! SUPPORT. One lemma per field per update of the state: the field written gives the value written, every other field is as
it was. -/

namespace Sys2Proof.Machine

/-! ### setRomBank -/

@[simp] theorem State.setRomBank_config (s : State) (v : BitVec 7) : (s.setRomBank v).config = s.config := rfl
@[simp] theorem State.setRomBank_romBank (s : State) (v : BitVec 7) : (s.setRomBank v).romBank = v := rfl
@[simp] theorem State.setRomBank_ramBank (s : State) (v : BitVec 7) : (s.setRomBank v).ramBank = s.ramBank := rfl
@[simp] theorem State.setRomBank_ramEnabled (s : State) (v : BitVec 7) : (s.setRomBank v).ramEnabled = s.ramEnabled := rfl
@[simp] theorem State.setRomBank_ramMode (s : State) (v : BitVec 7) : (s.setRomBank v).ramMode = s.ramMode := rfl
@[simp] theorem State.setRomBank_latched (s : State) (v : BitVec 7) : (s.setRomBank v).latched = s.latched := rfl
@[simp] theorem State.setRomBank_rtc (s : State) (v : BitVec 7) : (s.setRomBank v).rtc = s.rtc := rfl
@[simp] theorem State.setRomBank_rtcZero (s : State) (v : BitVec 7) : (s.setRomBank v).rtcZero = s.rtcZero := rfl
@[simp] theorem State.setRomBank_sram (s : State) (v : BitVec 7) : (s.setRomBank v).sram = s.sram := rfl
@[simp] theorem State.setRomBank_status (s : State) (v : BitVec 7) : (s.setRomBank v).status = s.status := rfl
@[simp] theorem State.setRomBank_faultRecord (s : State) (v : BitVec 7) : (s.setRomBank v).faultRecord = s.faultRecord := rfl
@[simp] theorem State.setRomBank_saveImage (s : State) (v : BitVec 7) : (s.setRomBank v).saveImage = s.saveImage := rfl
@[simp] theorem State.setRomBank_others (s : State) (v : BitVec 7) : (s.setRomBank v).others = s.others := rfl
@[simp] theorem State.setRomBank_response (s : State) (v : BitVec 7) : (s.setRomBank v).response = s.response := rfl
@[simp] theorem State.setRomBank_pending (s : State) (v : BitVec 7) : (s.setRomBank v).pending = s.pending := rfl
@[simp] theorem State.setRomBank_timeAnswers (s : State) (v : BitVec 7) : (s.setRomBank v).timeAnswers = s.timeAnswers := rfl
@[simp] theorem State.setRomBank_drawCount (s : State) (v : BitVec 7) : (s.setRomBank v).drawCount = s.drawCount := rfl

/-! ### setRamBank -/

@[simp] theorem State.setRamBank_config (s : State) (v : Byte) : (s.setRamBank v).config = s.config := rfl
@[simp] theorem State.setRamBank_romBank (s : State) (v : Byte) : (s.setRamBank v).romBank = s.romBank := rfl
@[simp] theorem State.setRamBank_ramBank (s : State) (v : Byte) : (s.setRamBank v).ramBank = v := rfl
@[simp] theorem State.setRamBank_ramEnabled (s : State) (v : Byte) : (s.setRamBank v).ramEnabled = s.ramEnabled := rfl
@[simp] theorem State.setRamBank_ramMode (s : State) (v : Byte) : (s.setRamBank v).ramMode = s.ramMode := rfl
@[simp] theorem State.setRamBank_latched (s : State) (v : Byte) : (s.setRamBank v).latched = s.latched := rfl
@[simp] theorem State.setRamBank_rtc (s : State) (v : Byte) : (s.setRamBank v).rtc = s.rtc := rfl
@[simp] theorem State.setRamBank_rtcZero (s : State) (v : Byte) : (s.setRamBank v).rtcZero = s.rtcZero := rfl
@[simp] theorem State.setRamBank_sram (s : State) (v : Byte) : (s.setRamBank v).sram = s.sram := rfl
@[simp] theorem State.setRamBank_status (s : State) (v : Byte) : (s.setRamBank v).status = s.status := rfl
@[simp] theorem State.setRamBank_faultRecord (s : State) (v : Byte) : (s.setRamBank v).faultRecord = s.faultRecord := rfl
@[simp] theorem State.setRamBank_saveImage (s : State) (v : Byte) : (s.setRamBank v).saveImage = s.saveImage := rfl
@[simp] theorem State.setRamBank_others (s : State) (v : Byte) : (s.setRamBank v).others = s.others := rfl
@[simp] theorem State.setRamBank_response (s : State) (v : Byte) : (s.setRamBank v).response = s.response := rfl
@[simp] theorem State.setRamBank_pending (s : State) (v : Byte) : (s.setRamBank v).pending = s.pending := rfl
@[simp] theorem State.setRamBank_timeAnswers (s : State) (v : Byte) : (s.setRamBank v).timeAnswers = s.timeAnswers := rfl
@[simp] theorem State.setRamBank_drawCount (s : State) (v : Byte) : (s.setRamBank v).drawCount = s.drawCount := rfl

/-! ### setRamEnabled -/

@[simp] theorem State.setRamEnabled_config (s : State) (v : Bool) : (s.setRamEnabled v).config = s.config := rfl
@[simp] theorem State.setRamEnabled_romBank (s : State) (v : Bool) : (s.setRamEnabled v).romBank = s.romBank := rfl
@[simp] theorem State.setRamEnabled_ramBank (s : State) (v : Bool) : (s.setRamEnabled v).ramBank = s.ramBank := rfl
@[simp] theorem State.setRamEnabled_ramEnabled (s : State) (v : Bool) : (s.setRamEnabled v).ramEnabled = v := rfl
@[simp] theorem State.setRamEnabled_ramMode (s : State) (v : Bool) : (s.setRamEnabled v).ramMode = s.ramMode := rfl
@[simp] theorem State.setRamEnabled_latched (s : State) (v : Bool) : (s.setRamEnabled v).latched = s.latched := rfl
@[simp] theorem State.setRamEnabled_rtc (s : State) (v : Bool) : (s.setRamEnabled v).rtc = s.rtc := rfl
@[simp] theorem State.setRamEnabled_rtcZero (s : State) (v : Bool) : (s.setRamEnabled v).rtcZero = s.rtcZero := rfl
@[simp] theorem State.setRamEnabled_sram (s : State) (v : Bool) : (s.setRamEnabled v).sram = s.sram := rfl
@[simp] theorem State.setRamEnabled_status (s : State) (v : Bool) : (s.setRamEnabled v).status = s.status := rfl
@[simp] theorem State.setRamEnabled_faultRecord (s : State) (v : Bool) : (s.setRamEnabled v).faultRecord = s.faultRecord := rfl
@[simp] theorem State.setRamEnabled_saveImage (s : State) (v : Bool) : (s.setRamEnabled v).saveImage = s.saveImage := rfl
@[simp] theorem State.setRamEnabled_others (s : State) (v : Bool) : (s.setRamEnabled v).others = s.others := rfl
@[simp] theorem State.setRamEnabled_response (s : State) (v : Bool) : (s.setRamEnabled v).response = s.response := rfl
@[simp] theorem State.setRamEnabled_pending (s : State) (v : Bool) : (s.setRamEnabled v).pending = s.pending := rfl
@[simp] theorem State.setRamEnabled_timeAnswers (s : State) (v : Bool) : (s.setRamEnabled v).timeAnswers = s.timeAnswers := rfl
@[simp] theorem State.setRamEnabled_drawCount (s : State) (v : Bool) : (s.setRamEnabled v).drawCount = s.drawCount := rfl

/-! ### setRamMode -/

@[simp] theorem State.setRamMode_config (s : State) (v : Bool) : (s.setRamMode v).config = s.config := rfl
@[simp] theorem State.setRamMode_romBank (s : State) (v : Bool) : (s.setRamMode v).romBank = s.romBank := rfl
@[simp] theorem State.setRamMode_ramBank (s : State) (v : Bool) : (s.setRamMode v).ramBank = s.ramBank := rfl
@[simp] theorem State.setRamMode_ramEnabled (s : State) (v : Bool) : (s.setRamMode v).ramEnabled = s.ramEnabled := rfl
@[simp] theorem State.setRamMode_ramMode (s : State) (v : Bool) : (s.setRamMode v).ramMode = v := rfl
@[simp] theorem State.setRamMode_latched (s : State) (v : Bool) : (s.setRamMode v).latched = s.latched := rfl
@[simp] theorem State.setRamMode_rtc (s : State) (v : Bool) : (s.setRamMode v).rtc = s.rtc := rfl
@[simp] theorem State.setRamMode_rtcZero (s : State) (v : Bool) : (s.setRamMode v).rtcZero = s.rtcZero := rfl
@[simp] theorem State.setRamMode_sram (s : State) (v : Bool) : (s.setRamMode v).sram = s.sram := rfl
@[simp] theorem State.setRamMode_status (s : State) (v : Bool) : (s.setRamMode v).status = s.status := rfl
@[simp] theorem State.setRamMode_faultRecord (s : State) (v : Bool) : (s.setRamMode v).faultRecord = s.faultRecord := rfl
@[simp] theorem State.setRamMode_saveImage (s : State) (v : Bool) : (s.setRamMode v).saveImage = s.saveImage := rfl
@[simp] theorem State.setRamMode_others (s : State) (v : Bool) : (s.setRamMode v).others = s.others := rfl
@[simp] theorem State.setRamMode_response (s : State) (v : Bool) : (s.setRamMode v).response = s.response := rfl
@[simp] theorem State.setRamMode_pending (s : State) (v : Bool) : (s.setRamMode v).pending = s.pending := rfl
@[simp] theorem State.setRamMode_timeAnswers (s : State) (v : Bool) : (s.setRamMode v).timeAnswers = s.timeAnswers := rfl
@[simp] theorem State.setRamMode_drawCount (s : State) (v : Bool) : (s.setRamMode v).drawCount = s.drawCount := rfl

/-! ### setLatched -/

@[simp] theorem State.setLatched_config (s : State) (v : Bool) : (s.setLatched v).config = s.config := rfl
@[simp] theorem State.setLatched_romBank (s : State) (v : Bool) : (s.setLatched v).romBank = s.romBank := rfl
@[simp] theorem State.setLatched_ramBank (s : State) (v : Bool) : (s.setLatched v).ramBank = s.ramBank := rfl
@[simp] theorem State.setLatched_ramEnabled (s : State) (v : Bool) : (s.setLatched v).ramEnabled = s.ramEnabled := rfl
@[simp] theorem State.setLatched_ramMode (s : State) (v : Bool) : (s.setLatched v).ramMode = s.ramMode := rfl
@[simp] theorem State.setLatched_latched (s : State) (v : Bool) : (s.setLatched v).latched = v := rfl
@[simp] theorem State.setLatched_rtc (s : State) (v : Bool) : (s.setLatched v).rtc = s.rtc := rfl
@[simp] theorem State.setLatched_rtcZero (s : State) (v : Bool) : (s.setLatched v).rtcZero = s.rtcZero := rfl
@[simp] theorem State.setLatched_sram (s : State) (v : Bool) : (s.setLatched v).sram = s.sram := rfl
@[simp] theorem State.setLatched_status (s : State) (v : Bool) : (s.setLatched v).status = s.status := rfl
@[simp] theorem State.setLatched_faultRecord (s : State) (v : Bool) : (s.setLatched v).faultRecord = s.faultRecord := rfl
@[simp] theorem State.setLatched_saveImage (s : State) (v : Bool) : (s.setLatched v).saveImage = s.saveImage := rfl
@[simp] theorem State.setLatched_others (s : State) (v : Bool) : (s.setLatched v).others = s.others := rfl
@[simp] theorem State.setLatched_response (s : State) (v : Bool) : (s.setLatched v).response = s.response := rfl
@[simp] theorem State.setLatched_pending (s : State) (v : Bool) : (s.setLatched v).pending = s.pending := rfl
@[simp] theorem State.setLatched_timeAnswers (s : State) (v : Bool) : (s.setLatched v).timeAnswers = s.timeAnswers := rfl
@[simp] theorem State.setLatched_drawCount (s : State) (v : Bool) : (s.setLatched v).drawCount = s.drawCount := rfl

/-! ### setRtc -/

@[simp] theorem State.setRtc_config (s : State) (v : RtcRegs) : (s.setRtc v).config = s.config := rfl
@[simp] theorem State.setRtc_romBank (s : State) (v : RtcRegs) : (s.setRtc v).romBank = s.romBank := rfl
@[simp] theorem State.setRtc_ramBank (s : State) (v : RtcRegs) : (s.setRtc v).ramBank = s.ramBank := rfl
@[simp] theorem State.setRtc_ramEnabled (s : State) (v : RtcRegs) : (s.setRtc v).ramEnabled = s.ramEnabled := rfl
@[simp] theorem State.setRtc_ramMode (s : State) (v : RtcRegs) : (s.setRtc v).ramMode = s.ramMode := rfl
@[simp] theorem State.setRtc_latched (s : State) (v : RtcRegs) : (s.setRtc v).latched = s.latched := rfl
@[simp] theorem State.setRtc_rtc (s : State) (v : RtcRegs) : (s.setRtc v).rtc = v := rfl
@[simp] theorem State.setRtc_rtcZero (s : State) (v : RtcRegs) : (s.setRtc v).rtcZero = s.rtcZero := rfl
@[simp] theorem State.setRtc_sram (s : State) (v : RtcRegs) : (s.setRtc v).sram = s.sram := rfl
@[simp] theorem State.setRtc_status (s : State) (v : RtcRegs) : (s.setRtc v).status = s.status := rfl
@[simp] theorem State.setRtc_faultRecord (s : State) (v : RtcRegs) : (s.setRtc v).faultRecord = s.faultRecord := rfl
@[simp] theorem State.setRtc_saveImage (s : State) (v : RtcRegs) : (s.setRtc v).saveImage = s.saveImage := rfl
@[simp] theorem State.setRtc_others (s : State) (v : RtcRegs) : (s.setRtc v).others = s.others := rfl
@[simp] theorem State.setRtc_response (s : State) (v : RtcRegs) : (s.setRtc v).response = s.response := rfl
@[simp] theorem State.setRtc_pending (s : State) (v : RtcRegs) : (s.setRtc v).pending = s.pending := rfl
@[simp] theorem State.setRtc_timeAnswers (s : State) (v : RtcRegs) : (s.setRtc v).timeAnswers = s.timeAnswers := rfl
@[simp] theorem State.setRtc_drawCount (s : State) (v : RtcRegs) : (s.setRtc v).drawCount = s.drawCount := rfl

/-! ### setRtcZero -/

@[simp] theorem State.setRtcZero_config (s : State) (v : Option Int) : (s.setRtcZero v).config = s.config := rfl
@[simp] theorem State.setRtcZero_romBank (s : State) (v : Option Int) : (s.setRtcZero v).romBank = s.romBank := rfl
@[simp] theorem State.setRtcZero_ramBank (s : State) (v : Option Int) : (s.setRtcZero v).ramBank = s.ramBank := rfl
@[simp] theorem State.setRtcZero_ramEnabled (s : State) (v : Option Int) : (s.setRtcZero v).ramEnabled = s.ramEnabled := rfl
@[simp] theorem State.setRtcZero_ramMode (s : State) (v : Option Int) : (s.setRtcZero v).ramMode = s.ramMode := rfl
@[simp] theorem State.setRtcZero_latched (s : State) (v : Option Int) : (s.setRtcZero v).latched = s.latched := rfl
@[simp] theorem State.setRtcZero_rtc (s : State) (v : Option Int) : (s.setRtcZero v).rtc = s.rtc := rfl
@[simp] theorem State.setRtcZero_rtcZero (s : State) (v : Option Int) : (s.setRtcZero v).rtcZero = v := rfl
@[simp] theorem State.setRtcZero_sram (s : State) (v : Option Int) : (s.setRtcZero v).sram = s.sram := rfl
@[simp] theorem State.setRtcZero_status (s : State) (v : Option Int) : (s.setRtcZero v).status = s.status := rfl
@[simp] theorem State.setRtcZero_faultRecord (s : State) (v : Option Int) : (s.setRtcZero v).faultRecord = s.faultRecord := rfl
@[simp] theorem State.setRtcZero_saveImage (s : State) (v : Option Int) : (s.setRtcZero v).saveImage = s.saveImage := rfl
@[simp] theorem State.setRtcZero_others (s : State) (v : Option Int) : (s.setRtcZero v).others = s.others := rfl
@[simp] theorem State.setRtcZero_response (s : State) (v : Option Int) : (s.setRtcZero v).response = s.response := rfl
@[simp] theorem State.setRtcZero_pending (s : State) (v : Option Int) : (s.setRtcZero v).pending = s.pending := rfl
@[simp] theorem State.setRtcZero_timeAnswers (s : State) (v : Option Int) : (s.setRtcZero v).timeAnswers = s.timeAnswers := rfl
@[simp] theorem State.setRtcZero_drawCount (s : State) (v : Option Int) : (s.setRtcZero v).drawCount = s.drawCount := rfl

/-! ### setSram -/

@[simp] theorem State.setSram_config (s : State) (v : Memory) : (s.setSram v).config = s.config := rfl
@[simp] theorem State.setSram_romBank (s : State) (v : Memory) : (s.setSram v).romBank = s.romBank := rfl
@[simp] theorem State.setSram_ramBank (s : State) (v : Memory) : (s.setSram v).ramBank = s.ramBank := rfl
@[simp] theorem State.setSram_ramEnabled (s : State) (v : Memory) : (s.setSram v).ramEnabled = s.ramEnabled := rfl
@[simp] theorem State.setSram_ramMode (s : State) (v : Memory) : (s.setSram v).ramMode = s.ramMode := rfl
@[simp] theorem State.setSram_latched (s : State) (v : Memory) : (s.setSram v).latched = s.latched := rfl
@[simp] theorem State.setSram_rtc (s : State) (v : Memory) : (s.setSram v).rtc = s.rtc := rfl
@[simp] theorem State.setSram_rtcZero (s : State) (v : Memory) : (s.setSram v).rtcZero = s.rtcZero := rfl
@[simp] theorem State.setSram_sram (s : State) (v : Memory) : (s.setSram v).sram = v := rfl
@[simp] theorem State.setSram_status (s : State) (v : Memory) : (s.setSram v).status = s.status := rfl
@[simp] theorem State.setSram_faultRecord (s : State) (v : Memory) : (s.setSram v).faultRecord = s.faultRecord := rfl
@[simp] theorem State.setSram_saveImage (s : State) (v : Memory) : (s.setSram v).saveImage = s.saveImage := rfl
@[simp] theorem State.setSram_others (s : State) (v : Memory) : (s.setSram v).others = s.others := rfl
@[simp] theorem State.setSram_response (s : State) (v : Memory) : (s.setSram v).response = s.response := rfl
@[simp] theorem State.setSram_pending (s : State) (v : Memory) : (s.setSram v).pending = s.pending := rfl
@[simp] theorem State.setSram_timeAnswers (s : State) (v : Memory) : (s.setSram v).timeAnswers = s.timeAnswers := rfl
@[simp] theorem State.setSram_drawCount (s : State) (v : Memory) : (s.setSram v).drawCount = s.drawCount := rfl

/-! ### setStatus -/

@[simp] theorem State.setStatus_config (s : State) (v : Status) : (s.setStatus v).config = s.config := rfl
@[simp] theorem State.setStatus_romBank (s : State) (v : Status) : (s.setStatus v).romBank = s.romBank := rfl
@[simp] theorem State.setStatus_ramBank (s : State) (v : Status) : (s.setStatus v).ramBank = s.ramBank := rfl
@[simp] theorem State.setStatus_ramEnabled (s : State) (v : Status) : (s.setStatus v).ramEnabled = s.ramEnabled := rfl
@[simp] theorem State.setStatus_ramMode (s : State) (v : Status) : (s.setStatus v).ramMode = s.ramMode := rfl
@[simp] theorem State.setStatus_latched (s : State) (v : Status) : (s.setStatus v).latched = s.latched := rfl
@[simp] theorem State.setStatus_rtc (s : State) (v : Status) : (s.setStatus v).rtc = s.rtc := rfl
@[simp] theorem State.setStatus_rtcZero (s : State) (v : Status) : (s.setStatus v).rtcZero = s.rtcZero := rfl
@[simp] theorem State.setStatus_sram (s : State) (v : Status) : (s.setStatus v).sram = s.sram := rfl
@[simp] theorem State.setStatus_status (s : State) (v : Status) : (s.setStatus v).status = v := rfl
@[simp] theorem State.setStatus_faultRecord (s : State) (v : Status) : (s.setStatus v).faultRecord = s.faultRecord := rfl
@[simp] theorem State.setStatus_saveImage (s : State) (v : Status) : (s.setStatus v).saveImage = s.saveImage := rfl
@[simp] theorem State.setStatus_others (s : State) (v : Status) : (s.setStatus v).others = s.others := rfl
@[simp] theorem State.setStatus_response (s : State) (v : Status) : (s.setStatus v).response = s.response := rfl
@[simp] theorem State.setStatus_pending (s : State) (v : Status) : (s.setStatus v).pending = s.pending := rfl
@[simp] theorem State.setStatus_timeAnswers (s : State) (v : Status) : (s.setStatus v).timeAnswers = s.timeAnswers := rfl
@[simp] theorem State.setStatus_drawCount (s : State) (v : Status) : (s.setStatus v).drawCount = s.drawCount := rfl

/-! ### setFaultRecord -/

@[simp] theorem State.setFaultRecord_config (s : State) (v : Option Fault) : (s.setFaultRecord v).config = s.config := rfl
@[simp] theorem State.setFaultRecord_romBank (s : State) (v : Option Fault) : (s.setFaultRecord v).romBank = s.romBank := rfl
@[simp] theorem State.setFaultRecord_ramBank (s : State) (v : Option Fault) : (s.setFaultRecord v).ramBank = s.ramBank := rfl
@[simp] theorem State.setFaultRecord_ramEnabled (s : State) (v : Option Fault) : (s.setFaultRecord v).ramEnabled = s.ramEnabled := rfl
@[simp] theorem State.setFaultRecord_ramMode (s : State) (v : Option Fault) : (s.setFaultRecord v).ramMode = s.ramMode := rfl
@[simp] theorem State.setFaultRecord_latched (s : State) (v : Option Fault) : (s.setFaultRecord v).latched = s.latched := rfl
@[simp] theorem State.setFaultRecord_rtc (s : State) (v : Option Fault) : (s.setFaultRecord v).rtc = s.rtc := rfl
@[simp] theorem State.setFaultRecord_rtcZero (s : State) (v : Option Fault) : (s.setFaultRecord v).rtcZero = s.rtcZero := rfl
@[simp] theorem State.setFaultRecord_sram (s : State) (v : Option Fault) : (s.setFaultRecord v).sram = s.sram := rfl
@[simp] theorem State.setFaultRecord_status (s : State) (v : Option Fault) : (s.setFaultRecord v).status = s.status := rfl
@[simp] theorem State.setFaultRecord_faultRecord (s : State) (v : Option Fault) : (s.setFaultRecord v).faultRecord = v := rfl
@[simp] theorem State.setFaultRecord_saveImage (s : State) (v : Option Fault) : (s.setFaultRecord v).saveImage = s.saveImage := rfl
@[simp] theorem State.setFaultRecord_others (s : State) (v : Option Fault) : (s.setFaultRecord v).others = s.others := rfl
@[simp] theorem State.setFaultRecord_response (s : State) (v : Option Fault) : (s.setFaultRecord v).response = s.response := rfl
@[simp] theorem State.setFaultRecord_pending (s : State) (v : Option Fault) : (s.setFaultRecord v).pending = s.pending := rfl
@[simp] theorem State.setFaultRecord_timeAnswers (s : State) (v : Option Fault) : (s.setFaultRecord v).timeAnswers = s.timeAnswers := rfl
@[simp] theorem State.setFaultRecord_drawCount (s : State) (v : Option Fault) : (s.setFaultRecord v).drawCount = s.drawCount := rfl

/-! ### setSaveImage -/

@[simp] theorem State.setSaveImage_config (s : State) (v : Option ByteString) : (s.setSaveImage v).config = s.config := rfl
@[simp] theorem State.setSaveImage_romBank (s : State) (v : Option ByteString) : (s.setSaveImage v).romBank = s.romBank := rfl
@[simp] theorem State.setSaveImage_ramBank (s : State) (v : Option ByteString) : (s.setSaveImage v).ramBank = s.ramBank := rfl
@[simp] theorem State.setSaveImage_ramEnabled (s : State) (v : Option ByteString) : (s.setSaveImage v).ramEnabled = s.ramEnabled := rfl
@[simp] theorem State.setSaveImage_ramMode (s : State) (v : Option ByteString) : (s.setSaveImage v).ramMode = s.ramMode := rfl
@[simp] theorem State.setSaveImage_latched (s : State) (v : Option ByteString) : (s.setSaveImage v).latched = s.latched := rfl
@[simp] theorem State.setSaveImage_rtc (s : State) (v : Option ByteString) : (s.setSaveImage v).rtc = s.rtc := rfl
@[simp] theorem State.setSaveImage_rtcZero (s : State) (v : Option ByteString) : (s.setSaveImage v).rtcZero = s.rtcZero := rfl
@[simp] theorem State.setSaveImage_sram (s : State) (v : Option ByteString) : (s.setSaveImage v).sram = s.sram := rfl
@[simp] theorem State.setSaveImage_status (s : State) (v : Option ByteString) : (s.setSaveImage v).status = s.status := rfl
@[simp] theorem State.setSaveImage_faultRecord (s : State) (v : Option ByteString) : (s.setSaveImage v).faultRecord = s.faultRecord := rfl
@[simp] theorem State.setSaveImage_saveImage (s : State) (v : Option ByteString) : (s.setSaveImage v).saveImage = v := rfl
@[simp] theorem State.setSaveImage_others (s : State) (v : Option ByteString) : (s.setSaveImage v).others = s.others := rfl
@[simp] theorem State.setSaveImage_response (s : State) (v : Option ByteString) : (s.setSaveImage v).response = s.response := rfl
@[simp] theorem State.setSaveImage_pending (s : State) (v : Option ByteString) : (s.setSaveImage v).pending = s.pending := rfl
@[simp] theorem State.setSaveImage_timeAnswers (s : State) (v : Option ByteString) : (s.setSaveImage v).timeAnswers = s.timeAnswers := rfl
@[simp] theorem State.setSaveImage_drawCount (s : State) (v : Option ByteString) : (s.setSaveImage v).drawCount = s.drawCount := rfl

/-! ### setResponse -/

@[simp] theorem State.setResponse_config (s : State) (v : Response) : (s.setResponse v).config = s.config := rfl
@[simp] theorem State.setResponse_romBank (s : State) (v : Response) : (s.setResponse v).romBank = s.romBank := rfl
@[simp] theorem State.setResponse_ramBank (s : State) (v : Response) : (s.setResponse v).ramBank = s.ramBank := rfl
@[simp] theorem State.setResponse_ramEnabled (s : State) (v : Response) : (s.setResponse v).ramEnabled = s.ramEnabled := rfl
@[simp] theorem State.setResponse_ramMode (s : State) (v : Response) : (s.setResponse v).ramMode = s.ramMode := rfl
@[simp] theorem State.setResponse_latched (s : State) (v : Response) : (s.setResponse v).latched = s.latched := rfl
@[simp] theorem State.setResponse_rtc (s : State) (v : Response) : (s.setResponse v).rtc = s.rtc := rfl
@[simp] theorem State.setResponse_rtcZero (s : State) (v : Response) : (s.setResponse v).rtcZero = s.rtcZero := rfl
@[simp] theorem State.setResponse_sram (s : State) (v : Response) : (s.setResponse v).sram = s.sram := rfl
@[simp] theorem State.setResponse_status (s : State) (v : Response) : (s.setResponse v).status = s.status := rfl
@[simp] theorem State.setResponse_faultRecord (s : State) (v : Response) : (s.setResponse v).faultRecord = s.faultRecord := rfl
@[simp] theorem State.setResponse_saveImage (s : State) (v : Response) : (s.setResponse v).saveImage = s.saveImage := rfl
@[simp] theorem State.setResponse_others (s : State) (v : Response) : (s.setResponse v).others = s.others := rfl
@[simp] theorem State.setResponse_response (s : State) (v : Response) : (s.setResponse v).response = v := rfl
@[simp] theorem State.setResponse_pending (s : State) (v : Response) : (s.setResponse v).pending = s.pending := rfl
@[simp] theorem State.setResponse_timeAnswers (s : State) (v : Response) : (s.setResponse v).timeAnswers = s.timeAnswers := rfl
@[simp] theorem State.setResponse_drawCount (s : State) (v : Response) : (s.setResponse v).drawCount = s.drawCount := rfl

/-! ### setPending -/

@[simp] theorem State.setPending_config (s : State) (v : List Command) : (s.setPending v).config = s.config := rfl
@[simp] theorem State.setPending_romBank (s : State) (v : List Command) : (s.setPending v).romBank = s.romBank := rfl
@[simp] theorem State.setPending_ramBank (s : State) (v : List Command) : (s.setPending v).ramBank = s.ramBank := rfl
@[simp] theorem State.setPending_ramEnabled (s : State) (v : List Command) : (s.setPending v).ramEnabled = s.ramEnabled := rfl
@[simp] theorem State.setPending_ramMode (s : State) (v : List Command) : (s.setPending v).ramMode = s.ramMode := rfl
@[simp] theorem State.setPending_latched (s : State) (v : List Command) : (s.setPending v).latched = s.latched := rfl
@[simp] theorem State.setPending_rtc (s : State) (v : List Command) : (s.setPending v).rtc = s.rtc := rfl
@[simp] theorem State.setPending_rtcZero (s : State) (v : List Command) : (s.setPending v).rtcZero = s.rtcZero := rfl
@[simp] theorem State.setPending_sram (s : State) (v : List Command) : (s.setPending v).sram = s.sram := rfl
@[simp] theorem State.setPending_status (s : State) (v : List Command) : (s.setPending v).status = s.status := rfl
@[simp] theorem State.setPending_faultRecord (s : State) (v : List Command) : (s.setPending v).faultRecord = s.faultRecord := rfl
@[simp] theorem State.setPending_saveImage (s : State) (v : List Command) : (s.setPending v).saveImage = s.saveImage := rfl
@[simp] theorem State.setPending_others (s : State) (v : List Command) : (s.setPending v).others = s.others := rfl
@[simp] theorem State.setPending_response (s : State) (v : List Command) : (s.setPending v).response = s.response := rfl
@[simp] theorem State.setPending_pending (s : State) (v : List Command) : (s.setPending v).pending = v := rfl
@[simp] theorem State.setPending_timeAnswers (s : State) (v : List Command) : (s.setPending v).timeAnswers = s.timeAnswers := rfl
@[simp] theorem State.setPending_drawCount (s : State) (v : List Command) : (s.setPending v).drawCount = s.drawCount := rfl

/-! ### setTimeAnswers -/

@[simp] theorem State.setTimeAnswers_config (s : State) (v : List Seconds) : (s.setTimeAnswers v).config = s.config := rfl
@[simp] theorem State.setTimeAnswers_romBank (s : State) (v : List Seconds) : (s.setTimeAnswers v).romBank = s.romBank := rfl
@[simp] theorem State.setTimeAnswers_ramBank (s : State) (v : List Seconds) : (s.setTimeAnswers v).ramBank = s.ramBank := rfl
@[simp] theorem State.setTimeAnswers_ramEnabled (s : State) (v : List Seconds) : (s.setTimeAnswers v).ramEnabled = s.ramEnabled := rfl
@[simp] theorem State.setTimeAnswers_ramMode (s : State) (v : List Seconds) : (s.setTimeAnswers v).ramMode = s.ramMode := rfl
@[simp] theorem State.setTimeAnswers_latched (s : State) (v : List Seconds) : (s.setTimeAnswers v).latched = s.latched := rfl
@[simp] theorem State.setTimeAnswers_rtc (s : State) (v : List Seconds) : (s.setTimeAnswers v).rtc = s.rtc := rfl
@[simp] theorem State.setTimeAnswers_rtcZero (s : State) (v : List Seconds) : (s.setTimeAnswers v).rtcZero = s.rtcZero := rfl
@[simp] theorem State.setTimeAnswers_sram (s : State) (v : List Seconds) : (s.setTimeAnswers v).sram = s.sram := rfl
@[simp] theorem State.setTimeAnswers_status (s : State) (v : List Seconds) : (s.setTimeAnswers v).status = s.status := rfl
@[simp] theorem State.setTimeAnswers_faultRecord (s : State) (v : List Seconds) : (s.setTimeAnswers v).faultRecord = s.faultRecord := rfl
@[simp] theorem State.setTimeAnswers_saveImage (s : State) (v : List Seconds) : (s.setTimeAnswers v).saveImage = s.saveImage := rfl
@[simp] theorem State.setTimeAnswers_others (s : State) (v : List Seconds) : (s.setTimeAnswers v).others = s.others := rfl
@[simp] theorem State.setTimeAnswers_response (s : State) (v : List Seconds) : (s.setTimeAnswers v).response = s.response := rfl
@[simp] theorem State.setTimeAnswers_pending (s : State) (v : List Seconds) : (s.setTimeAnswers v).pending = s.pending := rfl
@[simp] theorem State.setTimeAnswers_timeAnswers (s : State) (v : List Seconds) : (s.setTimeAnswers v).timeAnswers = v := rfl
@[simp] theorem State.setTimeAnswers_drawCount (s : State) (v : List Seconds) : (s.setTimeAnswers v).drawCount = s.drawCount := rfl

/-! ### setDrawCount -/

@[simp] theorem State.setDrawCount_config (s : State) (v : Nat) : (s.setDrawCount v).config = s.config := rfl
@[simp] theorem State.setDrawCount_romBank (s : State) (v : Nat) : (s.setDrawCount v).romBank = s.romBank := rfl
@[simp] theorem State.setDrawCount_ramBank (s : State) (v : Nat) : (s.setDrawCount v).ramBank = s.ramBank := rfl
@[simp] theorem State.setDrawCount_ramEnabled (s : State) (v : Nat) : (s.setDrawCount v).ramEnabled = s.ramEnabled := rfl
@[simp] theorem State.setDrawCount_ramMode (s : State) (v : Nat) : (s.setDrawCount v).ramMode = s.ramMode := rfl
@[simp] theorem State.setDrawCount_latched (s : State) (v : Nat) : (s.setDrawCount v).latched = s.latched := rfl
@[simp] theorem State.setDrawCount_rtc (s : State) (v : Nat) : (s.setDrawCount v).rtc = s.rtc := rfl
@[simp] theorem State.setDrawCount_rtcZero (s : State) (v : Nat) : (s.setDrawCount v).rtcZero = s.rtcZero := rfl
@[simp] theorem State.setDrawCount_sram (s : State) (v : Nat) : (s.setDrawCount v).sram = s.sram := rfl
@[simp] theorem State.setDrawCount_status (s : State) (v : Nat) : (s.setDrawCount v).status = s.status := rfl
@[simp] theorem State.setDrawCount_faultRecord (s : State) (v : Nat) : (s.setDrawCount v).faultRecord = s.faultRecord := rfl
@[simp] theorem State.setDrawCount_saveImage (s : State) (v : Nat) : (s.setDrawCount v).saveImage = s.saveImage := rfl
@[simp] theorem State.setDrawCount_others (s : State) (v : Nat) : (s.setDrawCount v).others = s.others := rfl
@[simp] theorem State.setDrawCount_response (s : State) (v : Nat) : (s.setDrawCount v).response = s.response := rfl
@[simp] theorem State.setDrawCount_pending (s : State) (v : Nat) : (s.setDrawCount v).pending = s.pending := rfl
@[simp] theorem State.setDrawCount_timeAnswers (s : State) (v : Nat) : (s.setDrawCount v).timeAnswers = s.timeAnswers := rfl
@[simp] theorem State.setDrawCount_drawCount (s : State) (v : Nat) : (s.setDrawCount v).drawCount = v := rfl

/-! ### A draw of the Time Source -/

@[simp] theorem State.afterDraw_config (s : State) : s.afterDraw.config = s.config := rfl
@[simp] theorem State.afterDraw_romBank (s : State) : s.afterDraw.romBank = s.romBank := rfl
@[simp] theorem State.afterDraw_ramBank (s : State) : s.afterDraw.ramBank = s.ramBank := rfl
@[simp] theorem State.afterDraw_ramEnabled (s : State) : s.afterDraw.ramEnabled = s.ramEnabled := rfl
@[simp] theorem State.afterDraw_ramMode (s : State) : s.afterDraw.ramMode = s.ramMode := rfl
@[simp] theorem State.afterDraw_latched (s : State) : s.afterDraw.latched = s.latched := rfl
@[simp] theorem State.afterDraw_rtc (s : State) : s.afterDraw.rtc = s.rtc := rfl
@[simp] theorem State.afterDraw_rtcZero (s : State) : s.afterDraw.rtcZero = s.rtcZero := rfl
@[simp] theorem State.afterDraw_sram (s : State) : s.afterDraw.sram = s.sram := rfl
@[simp] theorem State.afterDraw_status (s : State) : s.afterDraw.status = s.status := rfl
@[simp] theorem State.afterDraw_faultRecord (s : State) : s.afterDraw.faultRecord = s.faultRecord := rfl
@[simp] theorem State.afterDraw_saveImage (s : State) : s.afterDraw.saveImage = s.saveImage := rfl
@[simp] theorem State.afterDraw_others (s : State) : s.afterDraw.others = s.others := rfl
@[simp] theorem State.afterDraw_response (s : State) : s.afterDraw.response = s.response := rfl
@[simp] theorem State.afterDraw_pending (s : State) : s.afterDraw.pending = s.pending := rfl
@[simp] theorem State.afterDraw_timeAnswers (s : State) : s.afterDraw.timeAnswers = s.timeAnswers.tail := rfl
@[simp] theorem State.afterDraw_drawCount (s : State) : s.afterDraw.drawCount = s.drawCount + 1 := rfl

/-! ### A new device -/

@[simp] theorem State.newDevice_config (s : State) (c : Configuration) (m : Memory × Option Int) :
    (s.newDevice c m).config = some c := rfl
@[simp] theorem State.newDevice_romBank (s : State) (c : Configuration) (m : Memory × Option Int) :
    (s.newDevice c m).romBank = 1 := rfl
@[simp] theorem State.newDevice_ramBank (s : State) (c : Configuration) (m : Memory × Option Int) :
    (s.newDevice c m).ramBank = 0 := rfl
@[simp] theorem State.newDevice_ramEnabled (s : State) (c : Configuration) (m : Memory × Option Int) :
    (s.newDevice c m).ramEnabled = false := rfl
@[simp] theorem State.newDevice_ramMode (s : State) (c : Configuration) (m : Memory × Option Int) :
    (s.newDevice c m).ramMode = false := rfl
@[simp] theorem State.newDevice_latched (s : State) (c : Configuration) (m : Memory × Option Int) :
    (s.newDevice c m).latched = false := rfl
@[simp] theorem State.newDevice_rtc (s : State) (c : Configuration) (m : Memory × Option Int) :
    (s.newDevice c m).rtc = RtcRegs.reset := rfl
@[simp] theorem State.newDevice_rtcZero (s : State) (c : Configuration) (m : Memory × Option Int) :
    (s.newDevice c m).rtcZero = m.2 := rfl
@[simp] theorem State.newDevice_sram (s : State) (c : Configuration) (m : Memory × Option Int) :
    (s.newDevice c m).sram = m.1 := rfl
@[simp] theorem State.newDevice_status (s : State) (c : Configuration) (m : Memory × Option Int) :
    (s.newDevice c m).status = .running := rfl
@[simp] theorem State.newDevice_faultRecord (s : State) (c : Configuration) (m : Memory × Option Int) :
    (s.newDevice c m).faultRecord = none := rfl
@[simp] theorem State.newDevice_saveImage (s : State) (c : Configuration) (m : Memory × Option Int) :
    (s.newDevice c m).saveImage = none := rfl
@[simp] theorem State.newDevice_others (s : State) (c : Configuration) (m : Memory × Option Int) :
    (s.newDevice c m).others = s.devices := rfl
@[simp] theorem State.newDevice_response (s : State) (c : Configuration) (m : Memory × Option Int) :
    (s.newDevice c m).response = .loaded := rfl
@[simp] theorem State.newDevice_pending (s : State) (c : Configuration) (m : Memory × Option Int) :
    (s.newDevice c m).pending = s.pending := rfl
@[simp] theorem State.newDevice_timeAnswers (s : State) (c : Configuration) (m : Memory × Option Int) :
    (s.newDevice c m).timeAnswers = s.timeAnswers := rfl
@[simp] theorem State.newDevice_drawCount (s : State) (c : Configuration) (m : Memory × Option Int) :
    (s.newDevice c m).drawCount = s.drawCount := rfl

/-! ### Devices -/

@[simp] theorem State.bring_config (s : State) (d : Device) (l : List Device) : (s.bring d l).config = some d.config := rfl
@[simp] theorem State.bring_romBank (s : State) (d : Device) (l : List Device) : (s.bring d l).romBank = d.romBank := rfl
@[simp] theorem State.bring_ramBank (s : State) (d : Device) (l : List Device) : (s.bring d l).ramBank = d.ramBank := rfl
@[simp] theorem State.bring_ramEnabled (s : State) (d : Device) (l : List Device) : (s.bring d l).ramEnabled = d.ramEnabled := rfl
@[simp] theorem State.bring_ramMode (s : State) (d : Device) (l : List Device) : (s.bring d l).ramMode = d.ramMode := rfl
@[simp] theorem State.bring_latched (s : State) (d : Device) (l : List Device) : (s.bring d l).latched = d.latched := rfl
@[simp] theorem State.bring_rtc (s : State) (d : Device) (l : List Device) : (s.bring d l).rtc = d.rtc := rfl
@[simp] theorem State.bring_rtcZero (s : State) (d : Device) (l : List Device) : (s.bring d l).rtcZero = d.rtcZero := rfl
@[simp] theorem State.bring_sram (s : State) (d : Device) (l : List Device) : (s.bring d l).sram = d.sram := rfl
@[simp] theorem State.bring_status (s : State) (d : Device) (l : List Device) : (s.bring d l).status = d.status := rfl
@[simp] theorem State.bring_faultRecord (s : State) (d : Device) (l : List Device) : (s.bring d l).faultRecord = d.faultRecord := rfl
@[simp] theorem State.bring_saveImage (s : State) (d : Device) (l : List Device) : (s.bring d l).saveImage = d.saveImage := rfl
@[simp] theorem State.bring_others (s : State) (d : Device) (l : List Device) : (s.bring d l).others = l := rfl
@[simp] theorem State.bring_response (s : State) (d : Device) (l : List Device) : (s.bring d l).response = s.response := rfl
@[simp] theorem State.bring_pending (s : State) (d : Device) (l : List Device) : (s.bring d l).pending = s.pending := rfl
@[simp] theorem State.bring_timeAnswers (s : State) (d : Device) (l : List Device) : (s.bring d l).timeAnswers = s.timeAnswers := rfl
@[simp] theorem State.bring_drawCount (s : State) (d : Device) (l : List Device) : (s.bring d l).drawCount = s.drawCount := rfl

/-- A device brought to hand is the device at hand. -/
@[simp] theorem State.asDevice_bring (s : State) (d : Device) (l : List Device) : (s.bring d l).asDevice = some d := rfl

/-- Bringing the device at hand to hand changes nothing but what stands beside it. -/
theorem State.bring_asDevice {s : State} {d : Device} (h : s.asDevice = some d) (l : List Device) :
    s.bring d l = { s with others := l } := by
  obtain ⟨c, hc, rfl⟩ := Option.map_eq_some_iff.1 h
  simp [State.bring, ← hc]

theorem State.asDevice_none {s : State} : s.asDevice = none ↔ s.config = none := by
  simp [State.asDevice]

end Sys2Proof.Machine
end

