-- ==== Sys2Proof/Laws/Ops.lean ====
section
/-! SUPPORT. One law per shared operation: what the gate lets through, how an access ends, what the clock's algorithms
change, and the numbers that the operand assembly gives. -/

namespace Sys2Proof.Machine

/-! ### The gate -/

/-- A Running device takes the operation. -/
theorem onDevice_runs {s : State} {c : Configuration} (h : s.runs c) (k : Configuration → StepResult) :
    onDevice s k = k c := by
  simp [onDevice, h.1, h.2]

/-- A Running device of the form's variant takes the form. -/
theorem onVariant_runs {s : State} {c : Configuration} {v : Variant} (h : s.runs c) (hv : c.variant = v)
    (k : Configuration → StepResult) : onVariant v s k = k c := by
  rw [onVariant, onDevice_runs h, if_pos hv]

/-- What passes the gate passed it in a Running device. -/
theorem onDevice_next {s t : State} {k : Configuration → StepResult} (h : onDevice s k = .next t) :
    ∃ c, s.runs c ∧ k c = .next t := by
  unfold onDevice at h
  cases hc : s.config with
  | none => simp [hc] at h
  | some c =>
    cases hs : s.status with
    | running => exact ⟨c, ⟨hc, hs⟩, by simpa [hc, hs] using h⟩
    | faulted f => simp [hc, hs] at h
    | flushed => simp [hc, hs] at h

/-- What passes the gate of a variant's form passed it in a Running device of that variant. -/
theorem onVariant_next {s t : State} {v : Variant} {k : Configuration → StepResult} (h : onVariant v s k = .next t) :
    ∃ c, s.runs c ∧ c.variant = v ∧ k c = .next t := by
  obtain ⟨c, hr, hk⟩ := onDevice_next h
  split at hk
  · exact ⟨c, hr, ‹_›, hk⟩
  · simp at hk

/-- A Faulted device takes no bus transaction (60 R145). -/
theorem onDevice_faulted {s : State} {c : Configuration} {f : Fault} (hc : s.config = some c) (hs : s.status = .faulted f)
    (k : Configuration → StepResult) : onDevice s k = .refused .deviceFaulted := by
  simp [onDevice, hc, hs]

/-- A Flushed device takes nothing (10 R41). -/
theorem onDevice_flushed {s : State} {c : Configuration} (hc : s.config = some c) (hs : s.status = .flushed)
    (k : Configuration → StepResult) : onDevice s k = .refused .deviceFlushed := by
  simp [onDevice, hc, hs]

/-- The gate ends in no host fault if what it guards does not. -/
theorem onDevice_not_fault {s : State} {k : Configuration → StepResult} {f : Fault} (h : ∀ c, k c ≠ .fault f) :
    onDevice s k ≠ .fault f := by
  unfold onDevice
  split
  · simp
  · split <;> simp [h]

/-! ### Ends of an operation -/

theorem returnByte_eq (v : Byte) (s : State) : returnByte v s = .next { s with response := .byte v } := rfl

theorem finish_eq (s : State) : finish s = .next { s with response := .done } := rfl

/-- Taking a fault writes the status, the record and the report, and nothing else (60 R144). -/
theorem raiseFault_eq (f : Fault) (s : State) : raiseFault f s = .next (s.faultedWith f) := rfl

theorem readRom_inside {c : Configuration} {i : Nat} (h : i < c.rom.len) (s : State) :
    readRom c i s = .next { s with response := .byte (Memory.read c.rom.cells i) } := by
  rw [readRom, if_neg (by omega)]
  rfl

theorem readRom_outside {c : Configuration} {i : Nat} (h : c.rom.len ≤ i) (s : State) :
    readRom c i s = .next (s.faultedWith (.romIndexOutOfRange i)) := by
  rw [readRom, if_pos h]
  rfl

theorem readSram_inside {c : Configuration} {i : Nat} (h : i < c.sramSize) (s : State) :
    readSram c i s = .next { s with response := .byte (s.sram.read i) } := by
  rw [readSram, if_neg (by omega)]
  rfl

theorem readSram_outside {c : Configuration} {i : Nat} (h : c.sramSize ≤ i) (s : State) :
    readSram c i s = .next (s.faultedWith (.saveIndexOutOfRange i)) := by
  rw [readSram, if_pos h]
  rfl

theorem writeSram_inside {c : Configuration} {i : Nat} (h : i < c.sramSize) (v : Byte) (s : State) :
    writeSram c i v s = .next { s with sram := Memory.write s.sram i v, response := .done } := by
  rw [writeSram, if_neg (by omega)]
  rfl

theorem writeSram_outside {c : Configuration} {i : Nat} (h : c.sramSize ≤ i) (v : Byte) (s : State) :
    writeSram c i v s = .next (s.faultedWith (.saveIndexOutOfRange i)) := by
  rw [writeSram, if_pos h]
  rfl

/-! ### The clock -/

theorem calcRtcZero_unset {s : State} (h : s.rtcZero = none) : calcRtcZero s = s := by
  rw [calcRtcZero, h]

theorem calcRtcZero_set {s : State} {z : Int} (h : s.rtcZero = some z) :
    calcRtcZero s = { s with
      rtcZero := some (s.nextDraw - registerSeconds s.rtc)
      timeAnswers := s.timeAnswers.tail
      drawCount := s.drawCount + 1 } := by
  rw [calcRtcZero, h]
  rfl

/-- All that a rebase can do: nothing, or one draw and a new epoch. -/
theorem calcRtcZero_cases (s : State) :
    (s.rtcZero = none ∧ calcRtcZero s = s) ∨
    ∃ z, s.rtcZero = some z ∧ calcRtcZero s = { s with
      rtcZero := some (s.nextDraw - registerSeconds s.rtc)
      timeAnswers := s.timeAnswers.tail
      drawCount := s.drawCount + 1 } := by
  cases h : s.rtcZero with
  | none => exact .inl ⟨rfl, calcRtcZero_unset h⟩
  | some z => exact .inr ⟨z, rfl, calcRtcZero_set h⟩

theorem calcRtcReg_unset {s : State} (h : s.rtcZero = none) : calcRtcReg s = s := by
  rw [calcRtcReg, h]

theorem calcRtcReg_halted {s : State} (h : haltFlag s.rtc.flags = true) : calcRtcReg s = s := by
  rw [calcRtcReg]
  split
  · rfl
  · rw [if_pos h]

/-- With an epoch and not halted the derivation draws once. -/
theorem calcRtcReg_running {s : State} {z : Int} (h : s.rtcZero = some z) (hh : haltFlag s.rtc.flags = false) :
    calcRtcReg s = showElapsed (elapsedSince z s.nextDraw) s.afterDraw := by
  rw [calcRtcReg, h]
  simp [hh]

/-- A derivation below 512 days: one draw and the derived registers. -/
theorem calcRtcReg_shown {s : State} {z : Int} (h : s.rtcZero = some z) (hh : haltFlag s.rtc.flags = false)
    (hd : elapsedSince z s.nextDraw / 86400 < 512) :
    calcRtcReg s = { s with
      rtc := derivedRegs (elapsedSince z s.nextDraw) s.rtc.flags
      timeAnswers := s.timeAnswers.tail
      drawCount := s.drawCount + 1 } := by
  rw [calcRtcReg_running h hh, showElapsed, if_neg (by omega)]
  rfl

/-- A derivation at 512 days or more: the carry, and the rebase at a second draw. -/
theorem calcRtcReg_overflow {s : State} {z : Int} (h : s.rtcZero = some z) (hh : haltFlag s.rtc.flags = false)
    (hd : 512 ≤ elapsedSince z s.nextDraw / 86400) :
    calcRtcReg s = { s with
      rtc := carried (derivedRegs (elapsedSince z s.nextDraw) s.rtc.flags)
      rtcZero := some (s.afterDraw.nextDraw
        - registerSeconds (carried (derivedRegs (elapsedSince z s.nextDraw) s.rtc.flags)))
      timeAnswers := s.timeAnswers.tail.tail
      drawCount := s.drawCount + 2 } := by
  rw [calcRtcReg_running h hh, showElapsed, if_pos hd, calcRtcZero_set (z := z) (by simpa using h)]
  rfl

/-- All that a derivation can change: the registers, the epoch's value, and the draws. -/
theorem calcRtcReg_frame (s : State) :
    calcRtcReg s = { s with
      rtc := (calcRtcReg s).rtc
      rtcZero := (calcRtcReg s).rtcZero
      timeAnswers := (calcRtcReg s).timeAnswers
      drawCount := (calcRtcReg s).drawCount } ∧
    (calcRtcReg s).rtcZero.isSome = s.rtcZero.isSome ∧
    s.drawCount ≤ (calcRtcReg s).drawCount ∧ (calcRtcReg s).drawCount ≤ s.drawCount + 2 := by
  rcases h : s.rtcZero with _ | z
  · rw [calcRtcReg_unset h]
    exact ⟨rfl, by rw [h], by omega, by omega⟩
  · cases hh : haltFlag s.rtc.flags with
    | true =>
      rw [calcRtcReg_halted hh]
      exact ⟨rfl, by rw [h], by omega, by omega⟩
    | false =>
      rcases Nat.lt_or_ge (elapsedSince z s.nextDraw / 86400) 512 with hd | hd
      · rw [calcRtcReg_shown h hh hd]
        exact ⟨rfl, by rw [h], by simp, by simp⟩
      · rw [calcRtcReg_overflow h hh hd]
        exact ⟨rfl, rfl, by simp, by simp⟩

/-! ### Numbers -/

theorem romIndexA_eq {addr : Addr} (h : addr.toNat < 0x8000) : romIndexA addr = addr.toNat := by
  simp only [romIndexA, BitVec.extractLsb'_toNat, Nat.shiftRight_zero]
  omega

theorem romOffset_eq (addr : Addr) : romOffset addr = addr.toNat % 0x4000 := by
  simp [romOffset, BitVec.extractLsb'_toNat]

theorem saveOffset_eq (addr : Addr) : saveOffset addr = addr.toNat % 0x2000 := by
  simp [saveOffset, BitVec.extractLsb'_toNat]

/-- "The OR equals the sum" where the low bits are clear (20 R47). -/
theorem mul_or_eq_add (b : Nat) {k o : Nat} (h : o < 2 ^ k) : (b * 2 ^ k) ||| o = b * 2 ^ k + o := by
  rw [Nat.mul_comm]
  exact (Nat.two_pow_add_eq_or_of_lt h b).symm

theorem romIndexX_eq (b : BitVec 7) (addr : Addr) : romIndexX b addr = b.toNat * 0x4000 + addr.toNat % 0x4000 := by
  rw [romIndexX, romOffset_eq]
  exact mul_or_eq_add (k := 14) _ (by omega)

theorem sramIndex_eq (b : Nat) (addr : Addr) : sramIndex b addr = b * 0x2000 + addr.toNat % 0x2000 := by
  rw [sramIndex, saveOffset_eq]
  exact mul_or_eq_add (k := 13) _ (by omega)

/-- The window number is the address divided by the window's size. -/
theorem ctrlWindow_eq (addr : Addr) : ctrlWindow addr = addr.toNat / 0x2000 := by
  simp only [ctrlWindow, BitVec.extractLsb'_toNat, Nat.shiftRight_eq_div_pow]
  omega

theorem bankHighBits_toNat (b : BitVec 7) : (b &&& 0x60#7).toNat = b.toNat / 32 * 2 ^ 5 := by
  have : ∀ b : BitVec 7, (b &&& 0x60#7).toNat = b.toNat / 32 * 2 ^ 5 := by decide +kernel
  exact this b

theorem bankLowBits_toNat (b : BitVec 7) : (b &&& 0x1F#7).toNat = b.toNat % 32 := by
  have : ∀ b : BitVec 7, (b &&& 0x1F#7).toNat = b.toNat % 32 := by decide +kernel
  exact this b

theorem coercedLow_toNat (value : Byte) : (coerceBank ((value &&& 0x1F#8).setWidth 7)).toNat = max (value.toNat % 32) 1 := by
  have : ∀ v : Byte, (coerceBank ((v &&& 0x1F#8).setWidth 7)).toNat = max (v.toNat % 32) 1 := by decide +kernel
  exact this value

theorem shiftedHigh_toNat (value : Byte) : ((value &&& 0x03#8).setWidth 7 <<< 5).toNat = value.toNat % 4 * 2 ^ 5 := by
  have : ∀ v : Byte, ((v &&& 0x03#8).setWidth 7 <<< 5).toNat = v.toNat % 4 * 2 ^ 5 := by decide +kernel
  exact this value

theorem romBankLow_toNat (old : BitVec 7) (value : Byte) :
    (romBankLow old value).toNat = old.toNat / 32 * 32 + max (value.toNat % 32) 1 := by
  rw [romBankLow, BitVec.toNat_or, bankHighBits_toNat, coercedLow_toNat]
  exact mul_or_eq_add (k := 5) _ (by omega)

theorem romBankHigh_toNat (old : BitVec 7) (value : Byte) :
    (romBankHigh old value).toNat = value.toNat % 4 * 32 + old.toNat % 32 := by
  rw [romBankHigh, BitVec.toNat_or, bankLowBits_toNat, shiftedHigh_toNat, Nat.or_comm]
  exact mul_or_eq_add (k := 5) _ (by omega)

theorem romBankC_toNat (value : Byte) : (romBankC value).toNat = max (value.toNat % 128) 1 := by
  have : ∀ v : Byte, (romBankC v).toNat = max (v.toNat % 128) 1 := by decide +kernel
  exact this value

theorem ramBankB_toNat (value : Byte) : (ramBankB value).toNat = value.toNat % 4 := by
  have : ∀ v : Byte, (ramBankB v).toNat = v.toNat % 4 := by decide +kernel
  exact this value

end Sys2Proof.Machine
end

