-- ==== Sys2Proof/Laws/Clock.lean ====
section
/-! SUPPORT. The numbers behind the clock's registers, and what Variant C's save window shows for each selection. -/

namespace Sys2Proof.Machine

/-! ### Flags -/

theorem and_one_toNat (f : Byte) : (f &&& 1#8).toNat = f.toNat % 2 := by
  have : ∀ f : Byte, (f &&& 1#8).toNat = f.toNat % 2 := by decide +kernel
  exact this f

/-- Bit 0 is bit 8 of the day count, and the other bits stay (43 R107). -/
theorem withDayHigh_toNat (f : Byte) (d : Nat) : (withDayHigh f d).toNat = f.toNat / 2 * 2 + d / 256 % 2 := by
  have e : (d >>> 8) &&& 1 = d / 256 % 2 := by rw [Nat.and_one_is_mod, Nat.shiftRight_eq_div_pow]
  have k : ∀ f : Byte, ∀ x : Fin 2, ((f &&& 0xFE#8) ||| BitVec.ofNat 8 x.val).toNat = f.toNat / 2 * 2 + x.val := by
    decide +kernel
  rw [withDayHigh, e]
  exact k f ⟨d / 256 % 2, by omega⟩

theorem withDayHigh_bit (f : Byte) (d : Nat) {k : Nat} (h : 1 ≤ k) : (withDayHigh f d).getLsbD k = f.getLsbD k := by
  have e : (withDayHigh f d).toNat / 2 = f.toNat / 2 := by
    rw [withDayHigh_toNat]
    omega
  have hb := congrArg (fun n => n.testBit (k - 1)) e
  simp only [← Nat.testBit_succ] at hb
  rwa [Nat.succ_eq_add_one, Nat.sub_add_cancel h] at hb

/-- Setting CARRY sets bit 7 and keeps the others (43 R107). -/
theorem withCarry_facts (f : Byte) :
    (withCarry f).toNat % 2 = f.toNat % 2 ∧ (withCarry f).getLsbD 7 = true ∧
    ∀ k, k ≤ 6 → (withCarry f).getLsbD k = f.getLsbD k := by
  have h : ∀ f : Byte, (withCarry f).toNat % 2 = f.toNat % 2 ∧ (withCarry f).getLsbD 7 = true ∧
      ∀ k : Fin 7, (withCarry f).getLsbD k = f.getLsbD k := by decide +kernel
  obtain ⟨a, b, c⟩ := h f
  exact ⟨a, b, fun k hk => c ⟨k, by omega⟩⟩

/-! ### Registers and seconds -/

theorem registerSeconds_eq (g : RtcRegs) :
    registerSeconds g = g.seconds.toNat + g.minutes.toNat * 60 + g.hours.toNat * 3600
      + ((g.flags.toNat % 2 * 256 + g.dayLow.toNat : Nat) : Int) * 86400 := by
  rw [registerSeconds, days9, and_one_toNat]

/-- The registers an elapsed count derives, as numbers (43 R107). -/
theorem derivedRegs_numbers (e : Nat) (f : Byte) :
    (derivedRegs e f).seconds.toNat = e % 60 ∧ (derivedRegs e f).minutes.toNat = e / 60 % 60 ∧
    (derivedRegs e f).hours.toNat = e / 3600 % 24 ∧
    (derivedRegs e f).flags.toNat % 2 * 256 + (derivedRegs e f).dayLow.toNat = e / 86400 % 512 ∧
    (derivedRegs e f).flags.toNat / 2 = f.toNat / 2 := by
  simp only [derivedRegs, withDayHigh_toNat, BitVec.toNat_ofNat]
  have := f.isLt
  omega

/-- What the derived registers stand for is the elapsed count modulo 512 days. -/
theorem registerSeconds_derivedRegs (e : Nat) (f : Byte) :
    registerSeconds (derivedRegs e f) = ((e % (512 * 86400) : Nat) : Int) := by
  obtain ⟨a, b, c, d, -⟩ := derivedRegs_numbers e f
  rw [registerSeconds_eq, a, b, c, d]
  push_cast
  omega

/-- CARRY plays no part in what the registers stand for (43 R112). -/
theorem registerSeconds_carried (g : RtcRegs) : registerSeconds (carried g) = registerSeconds g := by
  rw [registerSeconds_eq, registerSeconds_eq]
  simp only [carried, (withCarry_facts g.flags).1]

theorem elapsedSince_eq {z t : Int} {e : Nat} (h : (e : Int) = max 0 (t - z)) : elapsedSince z t = e := by
  rw [elapsedSince, ← h]
  simp

/-- All that a rebase can do: the epoch's value, and the draws. -/
theorem calcRtcZero_frame (s : State) :
    ∃ z answers n, calcRtcZero s = { s with rtcZero := z, timeAnswers := answers, drawCount := n } ∧
      z.isSome = s.rtcZero.isSome := by
  rcases calcRtcZero_cases s with ⟨-, h⟩ | ⟨z, hz, h⟩ <;> rw [h]
  · exact ⟨_, _, _, rfl, rfl⟩
  · exact ⟨_, _, _, rfl, by simp [hz]⟩

theorem RtcRegs.set_get (g : RtcRegs) (r : RtcReg) : g.set r (g.get r) = g := by
  cases r <;> rfl

theorem RtcRegs.get_set_other (g : RtcRegs) (v : Byte) {r r' : RtcReg} (h : r' ≠ r) : (g.set r v).get r' = g.get r' := by
  cases r <;> cases r' <;> first | rfl | exact absurd rfl h

/-! ### What the save window of Variant C shows (42 R95) -/

theorem saveTargetC_bank {c : Configuration} {b : Byte} {addr : Addr} (h : b.toNat ≤ 3) :
    saveTargetC c b addr = if c.sramSize = 0 then .absent else .sramAt (b.toNat * 0x2000 + addr.toNat % 0x2000) := by
  rw [saveTargetC, if_pos h, sramIndex_eq]

theorem rtcSelect_none (b : Byte) : rtcSelect b = none ↔ (b.toNat < 8 ∨ 12 < b.toNat) := by
  have : ∀ b : Byte, (rtcSelect b = none ↔ (b.toNat < 8 ∨ 12 < b.toNat)) := by decide +kernel
  exact this b

theorem saveTargetC_unmapped {c : Configuration} {b : Byte} {addr : Addr}
    (h : 4 ≤ b.toNat ∧ b.toNat ≤ 7 ∨ 13 ≤ b.toNat) : saveTargetC c b addr = .unmapped b := by
  have hn : rtcSelect b = none := (rtcSelect_none b).2 (by omega)
  rw [saveTargetC, if_neg (by omega), hn]

/-- A selection of 8 to 12 shows the clock register of that index, the same through the whole window. -/
theorem saveTargetC_clock {c : Configuration} {b : Byte} {addr : Addr} (h : 8 ≤ b.toNat) (h' : b.toNat ≤ 12) :
    ∃ r, saveTargetC c b addr = .rtcReg r ∧ (∀ g : RtcRegs, g.toList[b.toNat - 8]? = some (g.get r)) ∧
      ∀ (g : RtcRegs) (v : Byte), (g.set r v).toList = g.toList.set (b.toNat - 8) v := by
  rw [saveTargetC, if_neg (by omega)]
  have hb : b.toNat = 8 ∨ b.toNat = 9 ∨ b.toNat = 10 ∨ b.toNat = 11 ∨ b.toNat = 12 := by omega
  rcases hb with hb | hb | hb | hb | hb
  · obtain rfl : b = 8#8 := BitVec.eq_of_toNat_eq (by simpa using hb)
    exact ⟨.seconds, rfl, fun g => rfl, fun g v => rfl⟩
  · obtain rfl : b = 9#8 := BitVec.eq_of_toNat_eq (by simpa using hb)
    exact ⟨.minutes, rfl, fun g => rfl, fun g v => rfl⟩
  · obtain rfl : b = 10#8 := BitVec.eq_of_toNat_eq (by simpa using hb)
    exact ⟨.hours, rfl, fun g => rfl, fun g v => rfl⟩
  · obtain rfl : b = 11#8 := BitVec.eq_of_toNat_eq (by simpa using hb)
    exact ⟨.dayLow, rfl, fun g => rfl, fun g v => rfl⟩
  · obtain rfl : b = 12#8 := BitVec.eq_of_toNat_eq (by simpa using hb)
    exact ⟨.flags, rfl, fun g => rfl, fun g v => rfl⟩

end Sys2Proof.Machine
end

