-- ==== Sys2Proof/Laws/Decode.lean ====
section
/-! SUPPORT. The fields of a transaction word, read back and as numbers, and what decides which row of the opcode table a
word matches. -/

namespace Sys2Proof

open Sys2Proof.Machine

/-! ### Fields -/

theorem shiftLeft_or_eq_add (b : Nat) {o k : Nat} (h : o < 2 ^ k) : (b <<< k) ||| o = b * 2 ^ k + o := by
  rw [Nat.shiftLeft_eq]
  exact mul_or_eq_add b h

/-- The word as a number: its three fields at their places (30 R64). -/
theorem busWord_toNat (op : BusOp) (a : Addr) (d : Byte) :
    (busWord op a d).toNat = (opBits op).toNat * 2 ^ 24 + a.toNat * 2 ^ 8 + d.toNat := by
  have h : (busWord op a d).toNat = ((opBits op ++ a) ++ d).toNat := rfl
  rw [h, BitVec.toNat_append, BitVec.toNat_append, shiftLeft_or_eq_add _ a.isLt, shiftLeft_or_eq_add _ d.isLt]
  omega

@[simp] theorem wordOp_busWord (op : BusOp) (a : Addr) (d : Byte) : wordOp (busWord op a d) = op := by
  have h : ((busWord op a d).extractLsb' 24 2).toNat = (opBits op).toNat := by
    rw [BitVec.extractLsb'_toNat, busWord_toNat, Nat.shiftRight_eq_div_pow]
    have := a.isLt
    have := d.isLt
    have := (opBits op).isLt
    omega
  unfold wordOp
  rw [h]
  cases op <;> rfl

@[simp] theorem wordAddr_busWord (op : BusOp) (a : Addr) (d : Byte) : wordAddr (busWord op a d) = a := by
  apply BitVec.eq_of_toNat_eq
  have := a.isLt
  have := d.isLt
  have := (opBits op).isLt
  rw [wordAddr, BitVec.extractLsb'_toNat, busWord_toNat, Nat.shiftRight_eq_div_pow]
  omega

@[simp] theorem wordData_busWord (op : BusOp) (a : Addr) (d : Byte) : wordData (busWord op a d) = d := by
  apply BitVec.eq_of_toNat_eq
  have := a.isLt
  have := d.isLt
  have := (opBits op).isLt
  rw [wordData, BitVec.extractLsb'_toNat, busWord_toNat, Nat.shiftRight_eq_div_pow]
  omega

theorem opBits_wordOp (w : TWord) : (opBits (wordOp w)).toNat = w.toNat / 2 ^ 24 := by
  have hw := w.isLt
  have h : (w.extractLsb' 24 2).toNat = w.toNat / 2 ^ 24 := by
    rw [BitVec.extractLsb'_toNat, Nat.shiftRight_eq_div_pow]
    omega
  have h4 : w.toNat / 2 ^ 24 < 4 := by omega
  unfold wordOp
  rw [h]
  generalize w.toNat / 2 ^ 24 = n at *
  match n, h4 with
  | 0, _ => rfl
  | 1, _ => rfl
  | 2, _ => rfl
  | 3, _ => rfl

theorem wordAddr_toNat (w : TWord) : (wordAddr w).toNat = w.toNat / 2 ^ 8 % 2 ^ 16 := by
  rw [wordAddr, BitVec.extractLsb'_toNat, Nat.shiftRight_eq_div_pow]

theorem wordData_toNat (w : TWord) : (wordData w).toNat = w.toNat % 2 ^ 8 := by
  rw [wordData, BitVec.extractLsb'_toNat, Nat.shiftRight_eq_div_pow]
  simp

/-- A word is its three fields and nothing else. -/
theorem busWord_fields (w : TWord) : busWord (wordOp w) (wordAddr w) (wordData w) = w := by
  apply BitVec.eq_of_toNat_eq
  rw [busWord_toNat, opBits_wordOp, wordAddr_toNat, wordData_toNat]
  have := w.isLt
  omega

theorem inRange_bounds {a : Addr} {lo hi : Nat} (h : Addr.inRange lo hi a = true) : lo ≤ a.toNat ∧ a.toNat ≤ hi := by
  simpa [Addr.inRange] using h

theorem inRange_of_bounds {a : Addr} {lo hi : Nat} (h : lo ≤ a.toNat) (h' : a.toNat ≤ hi) :
    Addr.inRange lo hi a = true := by
  simp [Addr.inRange, h, h']

/-- There are eight windows. -/
theorem ctrlWindow_lt (a : Addr) : ctrlWindow a < 8 := by
  rw [ctrlWindow_eq]
  have := a.isLt
  omega

/-! ### Rows of the opcode table -/

/-- `op` and `addr[15:13]` of a word, its top five bits. -/
def topBits (op : BusOp) (k : Nat) : BitVec 5 := BitVec.ofNat 5 ((opBits op).toNat * 8 + k)

theorem extract_busWord (op : BusOp) (a : Addr) (d : Byte) :
    (busWord op a d).extractLsb' 21 5 = topBits op (ctrlWindow a) := by
  apply BitVec.eq_of_toNat_eq
  rw [BitVec.extractLsb'_toNat, busWord_toNat, topBits, BitVec.toNat_ofNat, ctrlWindow_eq, Nat.shiftRight_eq_div_pow]
  have := a.isLt
  have := d.isLt
  have := (opBits op).isLt
  omega

/-- A pattern and a mask with nothing in the low 21 bits are met in the top five bits alone. -/
theorem masked_eq_iff (w : TWord) {m p : TWord} (hm : m.toNat % 2 ^ 21 = 0) (hp : p.toNat % 2 ^ 21 = 0) :
    w &&& m = p ↔ w.extractLsb' 21 5 &&& m.extractLsb' 21 5 = p.extractLsb' 21 5 := by
  constructor
  · rintro rfl
    ext i hi
    simp
  · intro h
    have hlow : ∀ x : TWord, x.toNat % 2 ^ 21 = 0 → ∀ i, i < 21 → x.getLsbD i = false := by
      intro x hx i hi
      have hb : (x.toNat % 2 ^ 21).testBit i = false := by rw [hx]; simp
      rw [Nat.testBit_mod_two_pow] at hb
      simpa [hi, BitVec.getLsbD] using hb
    apply BitVec.eq_of_getLsbD_eq
    intro i hi
    by_cases hl : i < 21
    · simp [hlow m hm i hl, hlow p hp i hl]
    · have hb := congrArg (fun x => BitVec.getLsbD x (i - 21)) h
      have e : 21 + (i - 21) = i := by omega
      have e' : i - 21 < 5 := by omega
      simpa [e, e'] using hb

/-- No word of a read or a write decodes to a host operation. -/
theorem encode_decode_ne_none (v : Variant) (w : TWord) : encode (decode v w) ≠ none := by
  cases v <;> simp only [decode, decodeA, decodeB, decodeC] <;> cases wordOp w <;> simp only <;>
    repeat' (first | (split) | simp [encode])

/-- A word that decodes to C.WR_LATCH is a control write to the fourth window of Variant C. -/
theorem decode_eq_cWrLatch {v : Variant} {w : TWord} {a : Addr} {d : Byte} (h : decode v w = .cWrLatch a d) :
    v = .c ∧ wordOp w = .wrCtrl ∧ ctrlWindow (wordAddr w) = 3 ∧ wordAddr w = a ∧ wordData w = d := by
  revert h
  cases v <;> simp only [decode, decodeA, decodeB, decodeC] <;> cases wordOp w <;> simp only <;> (repeat' split) <;>
    intro h <;> simp at h
  simp_all

/-- A word that decodes to C.WR_SAVE is a save write of Variant C. -/
theorem decode_eq_cWrSave {v : Variant} {w : TWord} {a : Addr} {d : Byte} (h : decode v w = .cWrSave a d) :
    v = .c ∧ wordOp w = .wrSave ∧ wordAddr w = a ∧ wordData w = d := by
  revert h
  cases v <;> simp only [decode, decodeA, decodeB, decodeC] <;> cases wordOp w <;> simp only <;> (repeat' split) <;>
    intro h <;> simp at h
  simp_all

end Sys2Proof
end

