-- ==== Sys2Proof/Laws/Exec.lean ====
section
/-! SUPPORT. One inversion per operation: all that a next state of `exec` can be, with the device that took the operation.
A proof about next states cites these and unfolds no meaning. -/

namespace Sys2Proof.Machine

/-! ### Ends of an access -/

theorem readRom_next {c : Configuration} {i : Nat} {s t : State} (h : readRom c i s = .next t) :
    (i < c.rom.len ∧ t = { s with response := .byte (Memory.read c.rom.cells i) }) ∨
    (c.rom.len ≤ i ∧ t = s.faultedWith (.romIndexOutOfRange i)) := by
  rcases Nat.lt_or_ge i c.rom.len with hi | hi
  · rw [readRom_inside hi] at h
    exact .inl ⟨hi, (Host.Outcome.next.inj h).symm⟩
  · rw [readRom_outside hi] at h
    exact .inr ⟨hi, (Host.Outcome.next.inj h).symm⟩

theorem readSram_next {c : Configuration} {i : Nat} {s t : State} (h : readSram c i s = .next t) :
    (i < c.sramSize ∧ t = { s with response := .byte (s.sram.read i) }) ∨
    (c.sramSize ≤ i ∧ t = s.faultedWith (.saveIndexOutOfRange i)) := by
  rcases Nat.lt_or_ge i c.sramSize with hi | hi
  · rw [readSram_inside hi] at h
    exact .inl ⟨hi, (Host.Outcome.next.inj h).symm⟩
  · rw [readSram_outside hi] at h
    exact .inr ⟨hi, (Host.Outcome.next.inj h).symm⟩

theorem writeSram_next {c : Configuration} {i : Nat} {v : Byte} {s t : State} (h : writeSram c i v s = .next t) :
    (i < c.sramSize ∧ t = { s with sram := Memory.write s.sram i v, response := .done }) ∨
    (c.sramSize ≤ i ∧ t = s.faultedWith (.saveIndexOutOfRange i)) := by
  rcases Nat.lt_or_ge i c.sramSize with hi | hi
  · rw [writeSram_inside hi] at h
    exact .inl ⟨hi, (Host.Outcome.next.inj h).symm⟩
  · rw [writeSram_outside hi] at h
    exact .inr ⟨hi, (Host.Outcome.next.inj h).symm⟩

/-! ### Variant A and the illegal forms -/

theorem exec_aRdRom_next {addr : Addr} {s t : State} (h : exec (.aRdRom addr) s = .next t) :
    ∃ c, s.runs c ∧ c.variant = .a ∧ readRom c (romIndexA addr) s = .next t := onVariant_next h

theorem exec_aRdSave_next {addr : Addr} {s t : State} (h : exec (.aRdSave addr) s = .next t) :
    ∃ c, s.runs c ∧ c.variant = .a ∧ t = { s with response := .byte 0x00 } := by
  obtain ⟨c, hr, hv, hk⟩ := onVariant_next h
  exact ⟨c, hr, hv, (Host.Outcome.next.inj hk).symm⟩

theorem exec_aWrCtrl_next {addr : Addr} {value : Byte} {s t : State} (h : exec (.aWrCtrl addr value) s = .next t) :
    ∃ c, s.runs c ∧ c.variant = .a ∧ t = { s with response := .done } := by
  obtain ⟨c, hr, hv, hk⟩ := onVariant_next h
  exact ⟨c, hr, hv, (Host.Outcome.next.inj hk).symm⟩

theorem exec_aWrSave_next {addr : Addr} {value : Byte} {s t : State} (h : exec (.aWrSave addr value) s = .next t) :
    ∃ c, s.runs c ∧ c.variant = .a ∧ t = { s with response := .done } := by
  obtain ⟨c, hr, hv, hk⟩ := onVariant_next h
  exact ⟨c, hr, hv, (Host.Outcome.next.inj hk).symm⟩

theorem exec_xRdProgOow_next {addr : Addr} {s t : State} (h : exec (.xRdProgOow addr) s = .next t) :
    ∃ c, s.runs c ∧ t = s.faultedWith (.programAddressOutOfWindow addr) := by
  obtain ⟨c, hr, hk⟩ := onDevice_next h
  exact ⟨c, hr, (Host.Outcome.next.inj hk).symm⟩

theorem exec_xWrCtrlUnmapped_next {addr : Addr} {value : Byte} {s t : State}
    (h : exec (.xWrCtrlUnmapped addr value) s = .next t) :
    ∃ c, s.runs c ∧ t = s.faultedWith (.unmappedControlAddress addr) := by
  obtain ⟨c, hr, hk⟩ := onDevice_next h
  exact ⟨c, hr, (Host.Outcome.next.inj hk).symm⟩

/-! ### Variant B -/

theorem exec_bRdRom0_next {addr : Addr} {s t : State} (h : exec (.bRdRom0 addr) s = .next t) :
    ∃ c, s.runs c ∧ c.variant = .b ∧ readRom c (romOffset addr) s = .next t := onVariant_next h

theorem exec_bRdRomX_next {addr : Addr} {s t : State} (h : exec (.bRdRomX addr) s = .next t) :
    ∃ c, s.runs c ∧ c.variant = .b ∧ readRom c (romIndexX s.romBank addr) s = .next t := onVariant_next h

/-- The gates of Variant B's save window are open exactly where the memory is there and enabled. -/
theorem saveGateClosedB_eq (c : Configuration) (s : State) :
    saveGateClosedB c s = true ↔ c.sramSize = 0 ∨ s.ramEnabled = false := by
  simp [saveGateClosedB]

theorem exec_bRdSave_next {addr : Addr} {s t : State} (h : exec (.bRdSave addr) s = .next t) :
    ∃ c, s.runs c ∧ c.variant = .b ∧
      (((c.sramSize = 0 ∨ s.ramEnabled = false) ∧ t = { s with response := .byte 0x00 }) ∨
        (c.sramSize ≠ 0 ∧ s.ramEnabled = true ∧ readSram c (saveIndexB s addr) s = .next t)) := by
  obtain ⟨c, hr, hv, hk⟩ := onVariant_next h
  refine ⟨c, hr, hv, ?_⟩
  split at hk
  · exact .inl ⟨(saveGateClosedB_eq c s).1 ‹_›, (Host.Outcome.next.inj hk).symm⟩
  · rename_i hg
    rw [saveGateClosedB_eq, not_or, Bool.not_eq_false] at hg
    exact .inr ⟨hg.1, hg.2, hk⟩

theorem exec_bWrRamEn_next {addr : Addr} {value : Byte} {s t : State} (h : exec (.bWrRamEn addr value) s = .next t) :
    ∃ c, s.runs c ∧ c.variant = .b ∧ t = { s with ramEnabled := ramEnableOf value, response := .done } := by
  obtain ⟨c, hr, hv, hk⟩ := onVariant_next h
  exact ⟨c, hr, hv, (Host.Outcome.next.inj hk).symm⟩

theorem exec_bWrRomLo_next {addr : Addr} {value : Byte} {s t : State} (h : exec (.bWrRomLo addr value) s = .next t) :
    ∃ c, s.runs c ∧ c.variant = .b ∧ t = { s with romBank := romBankLow s.romBank value, response := .done } := by
  obtain ⟨c, hr, hv, hk⟩ := onVariant_next h
  exact ⟨c, hr, hv, (Host.Outcome.next.inj hk).symm⟩

theorem exec_bWrBankHi_next {addr : Addr} {value : Byte} {s t : State} (h : exec (.bWrBankHi addr value) s = .next t) :
    ∃ c, s.runs c ∧ c.variant = .b ∧
      ((s.ramMode = true ∧ t = { s with ramBank := ramBankB value, response := .done }) ∨
        (s.ramMode = false ∧ t = { s with romBank := romBankHigh s.romBank value, response := .done })) := by
  obtain ⟨c, hr, hv, hk⟩ := onVariant_next h
  refine ⟨c, hr, hv, ?_⟩
  split at hk
  · exact .inl ⟨‹_›, (Host.Outcome.next.inj hk).symm⟩
  · exact .inr ⟨by simpa using ‹¬s.ramMode = true›, (Host.Outcome.next.inj hk).symm⟩

theorem exec_bWrMode_next {addr : Addr} {value : Byte} {s t : State} (h : exec (.bWrMode addr value) s = .next t) :
    ∃ c, s.runs c ∧ c.variant = .b ∧ t = { s with ramMode := ramModeOf value, response := .done } := by
  obtain ⟨c, hr, hv, hk⟩ := onVariant_next h
  exact ⟨c, hr, hv, (Host.Outcome.next.inj hk).symm⟩

theorem exec_bWrSave_next {addr : Addr} {value : Byte} {s t : State} (h : exec (.bWrSave addr value) s = .next t) :
    ∃ c, s.runs c ∧ c.variant = .b ∧
      (((c.sramSize = 0 ∨ s.ramEnabled = false) ∧ t = { s with response := .done }) ∨
        (c.sramSize ≠ 0 ∧ s.ramEnabled = true ∧ writeSram c (saveIndexB s addr) value s = .next t)) := by
  obtain ⟨c, hr, hv, hk⟩ := onVariant_next h
  refine ⟨c, hr, hv, ?_⟩
  split at hk
  · exact .inl ⟨(saveGateClosedB_eq c s).1 ‹_›, (Host.Outcome.next.inj hk).symm⟩
  · rename_i hg
    rw [saveGateClosedB_eq, not_or, Bool.not_eq_false] at hg
    exact .inr ⟨hg.1, hg.2, hk⟩

/-! ### Variant C -/

theorem exec_cRdRom0_next {addr : Addr} {s t : State} (h : exec (.cRdRom0 addr) s = .next t) :
    ∃ c, s.runs c ∧ c.variant = .c ∧ readRom c (romOffset addr) s = .next t := onVariant_next h

theorem exec_cRdRomX_next {addr : Addr} {s t : State} (h : exec (.cRdRomX addr) s = .next t) :
    ∃ c, s.runs c ∧ c.variant = .c ∧ readRom c (romIndexX s.romBank addr) s = .next t := onVariant_next h

theorem exec_cRdSave_next {addr : Addr} {s t : State} (h : exec (.cRdSave addr) s = .next t) :
    ∃ c, s.runs c ∧ c.variant = .c ∧
      ((s.ramEnabled = false ∧ t = { s with response := .byte 0x00 }) ∨
        (s.ramEnabled = true ∧ readTarget c (saveTargetC c s.ramBank addr) s = .next t)) := by
  obtain ⟨c, hr, hv, hk⟩ := onVariant_next h
  refine ⟨c, hr, hv, ?_⟩
  split at hk
  · exact .inr ⟨‹_›, hk⟩
  · exact .inl ⟨by simpa using ‹¬s.ramEnabled = true›, (Host.Outcome.next.inj hk).symm⟩

theorem exec_cWrRamEn_next {addr : Addr} {value : Byte} {s t : State} (h : exec (.cWrRamEn addr value) s = .next t) :
    ∃ c, s.runs c ∧ c.variant = .c ∧ t = { s with ramEnabled := ramEnableOf value, response := .done } := by
  obtain ⟨c, hr, hv, hk⟩ := onVariant_next h
  exact ⟨c, hr, hv, (Host.Outcome.next.inj hk).symm⟩

theorem exec_cWrRomB_next {addr : Addr} {value : Byte} {s t : State} (h : exec (.cWrRomB addr value) s = .next t) :
    ∃ c, s.runs c ∧ c.variant = .c ∧ t = { s with romBank := romBankC value, response := .done } := by
  obtain ⟨c, hr, hv, hk⟩ := onVariant_next h
  exact ⟨c, hr, hv, (Host.Outcome.next.inj hk).symm⟩

theorem exec_cWrRamB_next {addr : Addr} {value : Byte} {s t : State} (h : exec (.cWrRamB addr value) s = .next t) :
    ∃ c, s.runs c ∧ c.variant = .c ∧ t = { s with ramBank := value, response := .done } := by
  obtain ⟨c, hr, hv, hk⟩ := onVariant_next h
  exact ⟨c, hr, hv, (Host.Outcome.next.inj hk).symm⟩

theorem exec_cWrLatch_next {addr : Addr} {value : Byte} {s t : State} (h : exec (.cWrLatch addr value) s = .next t) :
    ∃ c, s.runs c ∧ c.variant = .c ∧
      ((value = 0x00 ∧ t = { s with latched := false, response := .done }) ∨
        (value = 0x01 ∧ s.latched = false ∧ t = { calcRtcReg s with latched := true, response := .done }) ∨
        (value ≠ 0x00 ∧ (value = 0x01 → s.latched = true) ∧ t = { s with response := .done })) := by
  obtain ⟨c, hr, hv, hk⟩ := onVariant_next h
  refine ⟨c, hr, hv, ?_⟩
  split at hk
  · exact .inl ⟨‹_›, (Host.Outcome.next.inj hk).symm⟩
  · split at hk
    · rename_i hl
      exact .inr (.inl ⟨hl.1, hl.2, (Host.Outcome.next.inj hk).symm⟩)
    · rename_i h0 hl
      exact .inr (.inr ⟨h0, fun h1 => by simpa using fun hf => hl ⟨h1, hf⟩, (Host.Outcome.next.inj hk).symm⟩)

theorem exec_cWrSave_next {addr : Addr} {value : Byte} {s t : State} (h : exec (.cWrSave addr value) s = .next t) :
    ∃ c, s.runs c ∧ c.variant = .c ∧
      ((s.ramEnabled = false ∧ t = { s with response := .done }) ∨
        (s.ramEnabled = true ∧ writeTarget c (saveTargetC c s.ramBank addr) value s = .next t)) := by
  obtain ⟨c, hr, hv, hk⟩ := onVariant_next h
  refine ⟨c, hr, hv, ?_⟩
  split at hk
  · exact .inr ⟨‹_›, hk⟩
  · exact .inl ⟨by simpa using ‹¬s.ramEnabled = true›, (Host.Outcome.next.inj hk).symm⟩

/-! ### The host operations -/

theorem exec_load_next {image : ByteString} {save : SaveFile} {init : Seconds} {s t : State}
    (h : exec (.load image save init) s = .next t) :
    (∃ f, loadDevice image save init = .error f ∧ t = { s with response := .fault f }) ∨
    (∃ c m, loadDevice image save init = .ok (c, m) ∧ t = s.newDevice c m) := by
  change execLoad image save init s = .next t at h
  unfold execLoad at h
  split at h
  · exact .inl ⟨_, ‹_›, (Host.Outcome.next.inj h).symm⟩
  · exact .inr ⟨_, _, ‹_›, (Host.Outcome.next.inj h).symm⟩

theorem exec_flush_next {answer : HostWrite} {s t : State} (h : exec (.flush answer) s = .next t) :
    ∃ c, s.config = some c ∧ s.status ≠ .flushed ∧ t = teardown c answer s := by
  change execFlush answer s = .next t at h
  unfold execFlush at h
  split at h
  · simp at h
  · split at h
    · simp at h
    · exact ⟨_, ‹_›, by simp [*], (Host.Outcome.next.inj h).symm⟩
    · exact ⟨_, ‹_›, by simp [*], (Host.Outcome.next.inj h).symm⟩

/-! ### Every bus transaction at once -/

/-- All that a bus transaction can do to the state of a device that took it. -/
inductive BusEffect (c : Configuration) (s : State) : State → Prop where
  /-- It answers. -/
  | answer (r : Response) : BusEffect c s { s with response := r }
  /-- It enters a fault. -/
  | fault (f : Fault) : BusEffect c s (s.faultedWith f)
  /-- It writes `ram_enabled`. -/
  | ramEnabled (hv : c.variant ≠ .a) (b : Bool) : BusEffect c s { s with ramEnabled := b, response := .done }
  /-- It writes the low bits of `rom_bank` in Variant B. -/
  | romLow (hv : c.variant = .b) (v : Byte) :
      BusEffect c s { s with romBank := romBankLow s.romBank v, response := .done }
  /-- It writes the high bits of `rom_bank` in Variant B. -/
  | romHigh (hv : c.variant = .b) (v : Byte) :
      BusEffect c s { s with romBank := romBankHigh s.romBank v, response := .done }
  /-- It writes `ram_bank` in Variant B. -/
  | ramBankB (hv : c.variant = .b) (v : Byte) : BusEffect c s { s with ramBank := ramBankB v, response := .done }
  /-- It writes `ram_mode`. -/
  | ramMode (hv : c.variant = .b) (b : Bool) : BusEffect c s { s with ramMode := b, response := .done }
  /-- It writes `rom_bank` in Variant C. -/
  | romBankC (hv : c.variant = .c) (v : Byte) : BusEffect c s { s with romBank := romBankC v, response := .done }
  /-- It writes `ram_bank` in Variant C. -/
  | ramBankC (hv : c.variant = .c) (v : Byte) : BusEffect c s { s with ramBank := v, response := .done }
  /-- It clears `latched`. -/
  | unlatch (hv : c.variant = .c) : BusEffect c s { s with latched := false, response := .done }
  /-- It captures. -/
  | capture (hv : c.variant = .c) : BusEffect c s { calcRtcReg s with latched := true, response := .done }
  /-- It stores a byte of SRAM within `sram_size`. -/
  | store (hv : c.variant ≠ .a) (i : Nat) (hi : i < c.sramSize) (v : Byte) :
      BusEffect c s { s with sram := Memory.write s.sram i v, response := .done }
  /-- It writes a clock register and rebases the epoch. -/
  | clock (hv : c.variant = .c) (r : RtcReg) (v : Byte) :
      BusEffect c s { calcRtcZero (s.setRtc (s.rtc.set r v)) with response := .done }

theorem readRom_effect {c : Configuration} {i : Nat} {s t : State} (h : readRom c i s = .next t) : BusEffect c s t := by
  rcases readRom_next h with ⟨-, rfl⟩ | ⟨-, rfl⟩
  · exact .answer _
  · exact .fault _

theorem readSram_effect {c : Configuration} {i : Nat} {s t : State} (h : readSram c i s = .next t) : BusEffect c s t := by
  rcases readSram_next h with ⟨-, rfl⟩ | ⟨-, rfl⟩
  · exact .answer _
  · exact .fault _

theorem writeSram_effect {c : Configuration} {i : Nat} {v : Byte} {s t : State} (hv : c.variant ≠ .a)
    (h : writeSram c i v s = .next t) : BusEffect c s t := by
  rcases writeSram_next h with ⟨hi, rfl⟩ | ⟨-, rfl⟩
  · exact .store hv i hi v
  · exact .fault _

theorem readTarget_effect {c : Configuration} {g : SaveTarget} {s t : State} (h : readTarget c g s = .next t) :
    BusEffect c s t := by
  cases g with
  | absent => obtain rfl := Host.Outcome.next.inj h; exact .answer _
  | sramAt i => exact readSram_effect h
  | rtcReg r => obtain rfl := Host.Outcome.next.inj h; exact .answer _
  | unmapped b => obtain rfl := Host.Outcome.next.inj h; exact .fault _

theorem writeTarget_effect {c : Configuration} {g : SaveTarget} {v : Byte} {s t : State} (hv : c.variant = .c)
    (h : writeTarget c g v s = .next t) : BusEffect c s t := by
  cases g with
  | absent => obtain rfl := Host.Outcome.next.inj h; exact .answer _
  | sramAt i => exact writeSram_effect (by simp [hv]) h
  | rtcReg r => obtain rfl := Host.Outcome.next.inj h; exact .clock hv r v
  | unmapped b => obtain rfl := Host.Outcome.next.inj h; exact .fault _

/-- Every next state of a bus transaction is one of its effects, in a Running device. -/
theorem exec_bus_effect {i : Instr} {s t : State} (hi : encode i ≠ none) (h : exec i s = .next t) :
    ∃ c, s.runs c ∧ BusEffect c s t := by
  cases i with
  | aRdRom a => obtain ⟨c, hr, -, hk⟩ := exec_aRdRom_next h; exact ⟨c, hr, readRom_effect hk⟩
  | aRdSave a => obtain ⟨c, hr, -, rfl⟩ := exec_aRdSave_next h; exact ⟨c, hr, .answer _⟩
  | aWrCtrl a v => obtain ⟨c, hr, -, rfl⟩ := exec_aWrCtrl_next h; exact ⟨c, hr, .answer _⟩
  | aWrSave a v => obtain ⟨c, hr, -, rfl⟩ := exec_aWrSave_next h; exact ⟨c, hr, .answer _⟩
  | bRdRom0 a => obtain ⟨c, hr, -, hk⟩ := exec_bRdRom0_next h; exact ⟨c, hr, readRom_effect hk⟩
  | bRdRomX a => obtain ⟨c, hr, -, hk⟩ := exec_bRdRomX_next h; exact ⟨c, hr, readRom_effect hk⟩
  | bRdSave a =>
    obtain ⟨c, hr, -, ⟨-, rfl⟩ | ⟨-, -, hk⟩⟩ := exec_bRdSave_next h
    · exact ⟨c, hr, .answer _⟩
    · exact ⟨c, hr, readSram_effect hk⟩
  | bWrRamEn a v => obtain ⟨c, hr, hv, rfl⟩ := exec_bWrRamEn_next h; exact ⟨c, hr, .ramEnabled (by simp [hv]) _⟩
  | bWrRomLo a v => obtain ⟨c, hr, hv, rfl⟩ := exec_bWrRomLo_next h; exact ⟨c, hr, .romLow hv v⟩
  | bWrBankHi a v =>
    obtain ⟨c, hr, hv, ⟨-, rfl⟩ | ⟨-, rfl⟩⟩ := exec_bWrBankHi_next h
    · exact ⟨c, hr, .ramBankB hv v⟩
    · exact ⟨c, hr, .romHigh hv v⟩
  | bWrMode a v => obtain ⟨c, hr, hv, rfl⟩ := exec_bWrMode_next h; exact ⟨c, hr, .ramMode hv _⟩
  | bWrSave a v =>
    obtain ⟨c, hr, hv, ⟨-, rfl⟩ | ⟨-, -, hk⟩⟩ := exec_bWrSave_next h
    · exact ⟨c, hr, .answer _⟩
    · exact ⟨c, hr, writeSram_effect (by simp [hv]) hk⟩
  | cRdRom0 a => obtain ⟨c, hr, -, hk⟩ := exec_cRdRom0_next h; exact ⟨c, hr, readRom_effect hk⟩
  | cRdRomX a => obtain ⟨c, hr, -, hk⟩ := exec_cRdRomX_next h; exact ⟨c, hr, readRom_effect hk⟩
  | cRdSave a =>
    obtain ⟨c, hr, -, ⟨-, rfl⟩ | ⟨-, hk⟩⟩ := exec_cRdSave_next h
    · exact ⟨c, hr, .answer _⟩
    · exact ⟨c, hr, readTarget_effect hk⟩
  | cWrRamEn a v => obtain ⟨c, hr, hv, rfl⟩ := exec_cWrRamEn_next h; exact ⟨c, hr, .ramEnabled (by simp [hv]) _⟩
  | cWrRomB a v => obtain ⟨c, hr, hv, rfl⟩ := exec_cWrRomB_next h; exact ⟨c, hr, .romBankC hv v⟩
  | cWrRamB a v => obtain ⟨c, hr, hv, rfl⟩ := exec_cWrRamB_next h; exact ⟨c, hr, .ramBankC hv v⟩
  | cWrLatch a v =>
    obtain ⟨c, hr, hv, ⟨-, rfl⟩ | ⟨-, -, rfl⟩ | ⟨-, -, rfl⟩⟩ := exec_cWrLatch_next h
    · exact ⟨c, hr, .unlatch hv⟩
    · exact ⟨c, hr, .capture hv⟩
    · exact ⟨c, hr, .answer _⟩
  | cWrSave a v =>
    obtain ⟨c, hr, hv, ⟨-, rfl⟩ | ⟨-, hk⟩⟩ := exec_cWrSave_next h
    · exact ⟨c, hr, .answer _⟩
    · exact ⟨c, hr, writeTarget_effect hv hk⟩
  | xRdProgOow a => obtain ⟨c, hr, rfl⟩ := exec_xRdProgOow_next h; exact ⟨c, hr, .fault _⟩
  | xWrCtrlUnmapped a v => obtain ⟨c, hr, rfl⟩ := exec_xWrCtrlUnmapped_next h; exact ⟨c, hr, .fault _⟩
  | load image save init => exact absurd rfl hi
  | flush answer => exact absurd rfl hi

/-- A Faulted device takes no bus transaction. -/
theorem exec_bus_faulted {s : State} {c : Configuration} {f : Fault} (hc : s.config = some c) (hs : s.status = .faulted f)
    (i : Instr) (h : encode i ≠ none) : exec i s = .refused .deviceFaulted := by
  cases i <;> simp [encode] at h <;> exact onDevice_faulted hc hs _

/-- A Flushed device takes no bus transaction. -/
theorem exec_bus_flushed {s : State} {c : Configuration} (hc : s.config = some c) (hs : s.status = .flushed)
    (i : Instr) (h : encode i ≠ none) : exec i s = .refused .deviceFlushed := by
  cases i <;> simp [encode] at h <;> exact onDevice_flushed hc hs _

/-! ### One step -/

theorem step_word {s : State} {c : Configuration} {w : TWord} {rest : List Command} (hc : s.config = some c)
    (hp : s.pending = .word w :: rest) : step s = exec (decode c.variant w) (s.setPending rest) := by
  simp [step, fetch, hp, hc]

theorem step_load {s : State} {image : ByteString} {save : SaveFile} {init : Seconds} {rest : List Command}
    (hp : s.pending = .load image save init :: rest) :
    step s = exec (.load image save init) (s.setPending rest) := by
  simp [step, fetch, hp]

theorem step_flush {s : State} {answer : HostWrite} {rest : List Command} (hp : s.pending = .flush answer :: rest) :
    step s = exec (.flush answer) (s.setPending rest) := by
  simp [step, fetch, hp]

/-- All that turning to another device can do: it brings that device to hand. -/
theorem selectDevice_next {n : Nat} {s t : State} (h : selectDevice n s = .next t) :
    ∃ d, s.others[n]? = some d ∧ t = s.bring d (s.asDevice.toList ++ s.others.eraseIdx n) := by
  unfold selectDevice at h
  split at h
  · simp at h
  · exact ⟨_, ‹_›, (Host.Outcome.next.inj h).symm⟩

theorem step_select {s : State} {n : Nat} {rest : List Command} (hp : s.pending = .select n :: rest) :
    step s = selectDevice n (s.setPending rest) := by
  simp [step, fetch, hp]

/-- All that a step with a next state can be: nothing pending, a word that a Running device took, a host operation, or a
turn to another device. -/
theorem step_next {s t : State} (h : step s = .next t) :
    (s.pending = [] ∧ t = s) ∨
    (∃ w rest c, s.pending = .word w :: rest ∧ s.runs c ∧
      exec (decode c.variant w) (s.setPending rest) = .next t ∧ BusEffect c (s.setPending rest) t) ∨
    (∃ image save init rest, s.pending = .load image save init :: rest ∧
      exec (.load image save init) (s.setPending rest) = .next t) ∨
    (∃ answer rest, s.pending = .flush answer :: rest ∧ exec (.flush answer) (s.setPending rest) = .next t) ∨
    (∃ n rest d, s.pending = .select n :: rest ∧ s.others[n]? = some d ∧
      t = (s.setPending rest).bring d (s.asDevice.toList ++ s.others.eraseIdx n)) := by
  rcases hp : s.pending with _ | ⟨w | ⟨image, save, init⟩ | answer | n, rest⟩
  · have hs : step s = .next s := by simp [step, fetch, hp]
    exact .inl ⟨rfl, (Host.Outcome.next.inj (hs.symm.trans h)).symm⟩
  · rcases hc : s.config with _ | c
    · simp [step, fetch, hp, hc] at h
    · rw [step_word hc hp] at h
      obtain ⟨d, hd, he⟩ := exec_bus_effect (encode_decode_ne_none _ _) h
      obtain rfl : c = d := Option.some.inj (hc.symm.trans hd.1)
      exact .inr (.inl ⟨w, rest, c, rfl, hd, h, he⟩)
  · rw [step_load hp] at h
    exact .inr (.inr (.inl ⟨image, save, init, rest, rfl, h⟩))
  · rw [step_flush hp] at h
    exact .inr (.inr (.inr (.inl ⟨answer, rest, rfl, h⟩)))
  · rw [step_select hp] at h
    obtain ⟨d, hd, rfl⟩ := selectDevice_next h
    exact .inr (.inr (.inr (.inr ⟨n, rest, d, rfl, hd, rfl⟩)))

end Sys2Proof.Machine
end

