-- ==== Sys2Proof/Laws/Persist.lean ====
section
/-! SUPPORT. All that LOAD's header and restore can give, all that FLUSH can change, and the round trip's two byte laws. -/

namespace Sys2Proof.Machine

/-- What TYPE_TABLE's rows have in common (44 R124, R127, R128). -/
theorem typeTable_facts {type : Byte} {k : CartridgeKind} (h : typeTable type = some k) :
    (k.variant = .a → k.battery = false ∧ k.clockCapable = false ∧ k.usesSizeByte = false) ∧
    (k.variant = .b → k.clockCapable = false) ∧ (k.clockCapable = true → k.battery = true) := by
  unfold typeTable at h
  split at h <;> first | (cases h; decide) | exact absurd h (by simp)

/-- What every configuration that LOAD makes satisfies. -/
theorem readHeader_facts {rom : ByteString} {c : Configuration} (h : readHeader rom = .ok c) :
    c.rom = rom ∧ (c.variant = .a → c.battery = false ∧ c.clockCapable = false ∧ c.sramSize = 0) ∧
    (c.variant = .b → c.clockCapable = false) ∧ (c.clockCapable = true → c.battery = true) := by
  unfold readHeader at h
  split at h
  · simp at h
  · split at h
    · simp at h
    · rename_i k hk
      split at h
      · simp at h
      · cases h
        obtain ⟨h1, h2, h3⟩ := typeTable_facts hk
        refine ⟨rfl, fun hv => ?_, h2, h3⟩
        obtain ⟨a, b, u⟩ := h1 hv
        exact ⟨a, b, by simp [configOf, u]⟩

/-- All that LOAD can make: a configuration that its own image gives, SRAM in canonical form within its length, and an
epoch exactly where clock-capable. -/
theorem loadDevice_facts {image : ByteString} {save : SaveFile} {init : Seconds} {c : Configuration}
    {m : Memory × Option Int} (h : loadDevice image save init = .ok (c, m)) :
    readHeader c.rom = .ok c ∧ c.rom.wf = true ∧ Memory.wf m.1 = true ∧ Memory.below c.sramSize m.1 = true ∧
    m.2.isSome = c.clockCapable ∧ (c.variant = .a → m.1 = []) := by
  unfold loadDevice at h
  split at h
  · simp at h
  · rename_i c' hh
    split at h
    · simp at h
    · rename_i m' hm
      simp at h
      obtain ⟨rfl, rfl⟩ := h
      obtain ⟨hrom, hA, -, -⟩ := readHeader_facts hh
      refine ⟨by rw [hrom]; exact hh, by rw [hrom]; exact wf_normalBytes _, ?_⟩
      have fresh : ∀ i : Seconds, (freshMemory c' i).2.isSome = c'.clockCapable := by
        intro i
        simp only [freshMemory]
        cases c'.clockCapable <;> rfl
      unfold restore at hm
      split at hm
      · rename_i hb
        split at hm
        · cases hm
          exact ⟨rfl, rfl, fresh _, fun _ => rfl⟩
        · rename_i b
          unfold restoreBytes at hm
          obtain ⟨w, bl⟩ := memoryOf_sound b
          split at hm
          · rename_i hv
            split at hm
            · rename_i hl
              cases hm
              refine ⟨Memory.wf_afterEpoch w, Memory.below_afterEpoch (hl ▸ bl), ?_, by simp [hv]⟩
              show Option.isSome (if _ then _ else _) = _
              cases c'.clockCapable <;> rfl
            · simp at hm
          · split at hm
            · rename_i hl
              cases hm
              refine ⟨w, hl ▸ bl, fresh _, fun hv => ?_⟩
              simp [hA hv] at hb
            · simp at hm
        · simp at hm
      · cases hm
        exact ⟨rfl, rfl, fresh _, fun _ => rfl⟩

/-- FLUSH is taken in any status but Flushed. -/
theorem exec_flush {s : State} {c : Configuration} (answer : HostWrite) (hc : s.config = some c)
    (hs : s.status ≠ .flushed) : exec (.flush answer) s = .next (teardown c answer s) := by
  change execFlush answer s = _
  unfold execFlush
  rw [hc]
  cases h : s.status with
  | running => rfl
  | faulted f => rfl
  | flushed => exact absurd h hs

/-- All that teardown can change: the status, the record, the image and the report; the first fault stays recorded, and
without a battery there is no image and no fault. -/
theorem teardown_frame (c : Configuration) (answer : HostWrite) (s : State) :
    ∃ record image r, teardown c answer s =
        { s with status := .flushed, faultRecord := record, saveImage := image, response := r } ∧
      (∀ f, s.faultRecord = some f → record = some f) ∧
      (c.battery = false → image = none ∧ record = s.faultRecord) := by
  have first : ∀ f g : Fault, s.faultRecord = some f → firstFault s.faultRecord g = some f := by
    intro f g h
    rw [h]
    rfl
  unfold teardown
  cases hb : c.battery with
  | false => exact ⟨_, _, _, rfl, fun f h => h, fun _ => ⟨rfl, rfl⟩⟩
  | true =>
    rw [if_pos rfl]
    split
    · exact ⟨_, _, _, rfl, fun f h => first f _ h, by simp⟩
    · split
      · exact ⟨_, _, _, rfl, fun f h => h, by simp⟩
      · exact ⟨_, _, _, rfl, fun f h => first f _ h, by simp⟩

end Sys2Proof.Machine
end

