-- ==== Sys2Proof/Laws/Devices.lean ====
section
/-! SUPPORT. The devices beside the one at hand: what leaves them as they are, what moves them, and the one induction behind
every property that all devices keep. -/

namespace Sys2Proof.Machine

/-- A bus transaction touches nothing but the device at hand: neither its configuration, nor the other devices, nor the
queue (00 R7, 60 R158). -/
theorem BusEffect.keeps {c : Configuration} {s t : State} (h : BusEffect c s t) :
    t.config = s.config ∧ t.others = s.others ∧ t.pending = s.pending := by
  cases h with
  | capture =>
    rw [(calcRtcReg_frame s).1]
    exact ⟨rfl, rfl, rfl⟩
  | clock hv r v =>
    obtain ⟨z, answers, n, h, -⟩ := calcRtcZero_frame (s.setRtc (s.rtc.set r v))
    rw [h]
    exact ⟨rfl, rfl, rfl⟩
  | _ => exact ⟨rfl, rfl, rfl⟩

/-- FLUSH touches nothing but the device at hand, nor its configuration. -/
theorem teardown_keeps (c : Configuration) (answer : HostWrite) (s : State) :
    (teardown c answer s).config = s.config ∧ (teardown c answer s).others = s.others ∧
    (teardown c answer s).pending = s.pending := by
  obtain ⟨record, image, r, h, -⟩ := teardown_frame c answer s
  rw [h]
  exact ⟨rfl, rfl, rfl⟩

/-- The devices of a state with none at hand, and with one. -/
theorem State.devices_none {s : State} (h : s.config = none) : s.devices = s.others := by
  rw [State.devices, State.asDevice_none.2 h]
  rfl

theorem State.devices_some {s : State} {d : Device} (h : s.asDevice = some d) : s.devices = d :: s.others := by
  rw [State.devices, h]
  rfl

/-- LOAD's new device stands before all the devices that were there. -/
theorem State.devices_newDevice (s : State) (c : Configuration) (m : Memory × Option Int) :
    ∃ d : Device, (s.newDevice c m).asDevice = some d ∧ d.config = c ∧ (s.newDevice c m).devices = d :: s.devices :=
  ⟨_, rfl, rfl, rfl⟩

/-- Turning to another device only reorders the devices. -/
theorem State.devices_turn {s : State} {d : Device} {n : Nat} (h : s.others[n]? = some d) :
    (s.bring d (s.asDevice.toList ++ s.others.eraseIdx n)).devices.Perm s.devices := by
  rw [State.devices_some (State.asDevice_bring s d _), State.bring_others, State.devices]
  obtain ⟨hn, rfl⟩ := List.getElem?_eq_some_iff.1 h
  exact (List.perm_middle.symm).trans ((List.getElem_cons_eraseIdx_perm hn).append_left _)

/-- A property of the device at hand that looks at no field of the environment, that LOAD gives, and that every bus
transaction and every FLUSH keeps, is kept by every step for every device. -/
theorem State.everyDevice_step {P : State → Prop}
    (environment : ∀ (s : State) (others : List Device) (response : Response) (pending : List Command)
      (answers : List Seconds) (n : Nat), P s →
      P { s with others := others, response := response, pending := pending, timeAnswers := answers, drawCount := n })
    (word : ∀ (c : Configuration) (s t : State), s.runs c → BusEffect c s t → P s → P t)
    (load : ∀ (image : ByteString) (save : SaveFile) (init : Seconds) (c : Configuration) (m : Memory × Option Int)
      (s : State), loadDevice image save init = .ok (c, m) → P (s.newDevice c m))
    (flush : ∀ (c : Configuration) (answer : HostWrite) (s : State), s.config = some c → P s → P (teardown c answer s))
    {s t : State} (hs : s.everyDevice P) (h : step s = .next t) : t.everyDevice P := by
  have at_hand : ∀ d : Device, s.asDevice = some d → ∀ (u : State), P (u.bring d []) := by
    intro d hd u
    have k := environment _ [] u.response u.pending u.timeAnswers u.drawCount hs.1
    obtain ⟨c, hc, rfl⟩ := Option.map_eq_some_iff.1 hd
    simpa [State.bring, ← hc] using k
  have every : ∀ d ∈ s.devices, ∀ u : State, P (u.bring d []) := by
    intro d hd u
    rw [State.devices, List.mem_append, Option.mem_toList] at hd
    rcases hd with hd | hd
    · exact at_hand d hd u
    · exact environment _ [] u.response u.pending u.timeAnswers u.drawCount (hs.2 d hd)
  have other : ∀ d ∈ s.others, ∀ u : State, P (u.bring d []) := fun d hd => every d (by simp [State.devices, hd])
  have taken : ∀ rest, P (s.setPending rest) := fun rest =>
    environment s s.others s.response rest s.timeAnswers s.drawCount hs.1
  rcases step_next h with ⟨-, rfl⟩ | ⟨w, rest, c, -, hr, -, he⟩ | ⟨image, save, init, rest, -, h⟩ | ⟨answer, rest, -, h⟩ |
    ⟨n, rest, d, -, hd, rfl⟩
  · exact hs
  · refine ⟨word c (s.setPending rest) t hr he (taken rest), fun d hd => other d ?_ t⟩
    rwa [he.keeps.2.1] at hd
  · rcases exec_load_next h with ⟨f, -, rfl⟩ | ⟨c, m, hl, rfl⟩
    · exact ⟨environment _ _ _ _ _ _ (taken rest), fun d hd => other d hd _⟩
    · exact ⟨load image save init c m _ hl, fun d hd => every d hd _⟩
  · obtain ⟨c, hc, -, rfl⟩ := exec_flush_next h
    refine ⟨flush c answer _ hc (taken rest), fun d hd => other d ?_ _⟩
    rwa [(teardown_keeps c answer _).2.1] at hd
  · have hm : d ∈ s.others := List.mem_of_getElem? hd
    refine ⟨environment _ _ s.response rest s.timeAnswers s.drawCount (other d hm s), fun d' hd' => every d' ?_ _⟩
    have hd'' : d' ∈ s.asDevice.toList ++ s.others.eraseIdx n := hd'
    rw [List.mem_append] at hd''
    rcases hd'' with hd' | hd'
    · simp only [State.devices, List.mem_append, hd', true_or]
    · simp only [State.devices, List.mem_append, List.mem_of_mem_eraseIdx hd', or_true]

end Sys2Proof.Machine
end

