-- ==== Sys2Proof/Laws/PerInstr.lean ====
section
/-! SUPPORT. One law per operation, as syntax: the word of a well-formed form fits the pattern of the form's own row of
spec/opcode_table.json, in the variants that the row serves; a host operation has neither word nor pattern. -/

namespace Sys2Proof.Laws.EncodingFitsRow

open Sys2Proof Sys2Proof.Machine

/-- The law of one operation. -/
def Statement (i : Instr) : Prop :=
  i.wellFormed = true →
    match encode i, tablePattern i.tableRow with
    | some w, some (variants, pattern, mask) => w &&& mask = pattern ∧ ∀ v, variants.contains v = i.inVariant v
    | none, none => True
    | _, _ => False

/-- Where every window from `lo` to `hi` fits in the top five bits, every word with an address there fits. -/
theorem fits {op : BusOp} {a : Addr} {d : Byte} {m p : TWord} {lo hi : Nat} (ha : lo * 0x2000 ≤ a.toNat)
    (ha' : a.toNat < (hi + 1) * 0x2000) (hm : m.toNat % 2 ^ 21 = 0) (hp : p.toNat % 2 ^ 21 = 0)
    (h : ∀ k : Fin 8, lo ≤ k.val → k.val ≤ hi → topBits op k &&& m.extractLsb' 21 5 = p.extractLsb' 21 5) :
    busWord op a d &&& m = p := by
  rw [masked_eq_iff _ hm hp, extract_busWord]
  have hk := ctrlWindow_eq a
  exact h ⟨ctrlWindow a, ctrlWindow_lt a⟩ (by simp only; omega) (by simp only; omega)

theorem aRdRom (addr : Addr) : Statement (.aRdRom addr) := by
  intro h
  obtain ⟨-, h'⟩ := inRange_bounds (lo := 0x0000) (hi := 0x7FFF) h
  exact ⟨fits (lo := 0) (hi := 3) (by simp) (by omega) (by decide) (by decide) (by decide), fun v => by cases v <;> rfl⟩

theorem aRdSave (addr : Addr) : Statement (.aRdSave addr) := by
  intro _
  have h := addr.isLt
  exact ⟨fits (lo := 0) (hi := 7) (by omega) (by omega) (by decide) (by decide) (by decide), fun v => by cases v <;> rfl⟩

theorem aWrCtrl (addr : Addr) (value : Byte) : Statement (.aWrCtrl addr value) := by
  intro h
  obtain ⟨-, h'⟩ := inRange_bounds (lo := 0x0000) (hi := 0x7FFF) h
  exact ⟨fits (lo := 0) (hi := 3) (by simp) (by omega) (by decide) (by decide) (by decide), fun v => by cases v <;> rfl⟩

theorem aWrSave (addr : Addr) (value : Byte) : Statement (.aWrSave addr value) := by
  intro _
  have h := addr.isLt
  exact ⟨fits (lo := 0) (hi := 7) (by omega) (by omega) (by decide) (by decide) (by decide), fun v => by cases v <;> rfl⟩

theorem bRdRom0 (addr : Addr) : Statement (.bRdRom0 addr) := by
  intro h
  obtain ⟨-, h'⟩ := inRange_bounds (lo := 0x0000) (hi := 0x3FFF) h
  exact ⟨fits (lo := 0) (hi := 1) (by simp) (by omega) (by decide) (by decide) (by decide), fun v => by cases v <;> rfl⟩

theorem bRdRomX (addr : Addr) : Statement (.bRdRomX addr) := by
  intro h
  obtain ⟨h, h'⟩ := inRange_bounds (lo := 0x4000) (hi := 0x7FFF) h
  exact ⟨fits (lo := 2) (hi := 3) (by omega) (by omega) (by decide) (by decide) (by decide), fun v => by cases v <;> rfl⟩

theorem bRdSave (addr : Addr) : Statement (.bRdSave addr) := by
  intro _
  have h := addr.isLt
  exact ⟨fits (lo := 0) (hi := 7) (by omega) (by omega) (by decide) (by decide) (by decide), fun v => by cases v <;> rfl⟩

theorem bWrRamEn (addr : Addr) (value : Byte) : Statement (.bWrRamEn addr value) := by
  intro h
  obtain ⟨-, h'⟩ := inRange_bounds (lo := 0x0000) (hi := 0x1FFF) h
  exact ⟨fits (lo := 0) (hi := 0) (by simp) (by omega) (by decide) (by decide) (by decide), fun v => by cases v <;> rfl⟩

theorem bWrRomLo (addr : Addr) (value : Byte) : Statement (.bWrRomLo addr value) := by
  intro h
  obtain ⟨h, h'⟩ := inRange_bounds (lo := 0x2000) (hi := 0x3FFF) h
  exact ⟨fits (lo := 1) (hi := 1) (by omega) (by omega) (by decide) (by decide) (by decide), fun v => by cases v <;> rfl⟩

theorem bWrBankHi (addr : Addr) (value : Byte) : Statement (.bWrBankHi addr value) := by
  intro h
  obtain ⟨h, h'⟩ := inRange_bounds (lo := 0x4000) (hi := 0x5FFF) h
  exact ⟨fits (lo := 2) (hi := 2) (by omega) (by omega) (by decide) (by decide) (by decide), fun v => by cases v <;> rfl⟩

theorem bWrMode (addr : Addr) (value : Byte) : Statement (.bWrMode addr value) := by
  intro h
  obtain ⟨h, h'⟩ := inRange_bounds (lo := 0x6000) (hi := 0x7FFF) h
  exact ⟨fits (lo := 3) (hi := 3) (by omega) (by omega) (by decide) (by decide) (by decide), fun v => by cases v <;> rfl⟩

theorem bWrSave (addr : Addr) (value : Byte) : Statement (.bWrSave addr value) := by
  intro _
  have h := addr.isLt
  exact ⟨fits (lo := 0) (hi := 7) (by omega) (by omega) (by decide) (by decide) (by decide), fun v => by cases v <;> rfl⟩

theorem cRdRom0 (addr : Addr) : Statement (.cRdRom0 addr) := by
  intro h
  obtain ⟨-, h'⟩ := inRange_bounds (lo := 0x0000) (hi := 0x3FFF) h
  exact ⟨fits (lo := 0) (hi := 1) (by simp) (by omega) (by decide) (by decide) (by decide), fun v => by cases v <;> rfl⟩

theorem cRdRomX (addr : Addr) : Statement (.cRdRomX addr) := by
  intro h
  obtain ⟨h, h'⟩ := inRange_bounds (lo := 0x4000) (hi := 0x7FFF) h
  exact ⟨fits (lo := 2) (hi := 3) (by omega) (by omega) (by decide) (by decide) (by decide), fun v => by cases v <;> rfl⟩

theorem cRdSave (addr : Addr) : Statement (.cRdSave addr) := by
  intro _
  have h := addr.isLt
  exact ⟨fits (lo := 0) (hi := 7) (by omega) (by omega) (by decide) (by decide) (by decide), fun v => by cases v <;> rfl⟩

theorem cWrRamEn (addr : Addr) (value : Byte) : Statement (.cWrRamEn addr value) := by
  intro h
  obtain ⟨-, h'⟩ := inRange_bounds (lo := 0x0000) (hi := 0x1FFF) h
  exact ⟨fits (lo := 0) (hi := 0) (by simp) (by omega) (by decide) (by decide) (by decide), fun v => by cases v <;> rfl⟩

theorem cWrRomB (addr : Addr) (value : Byte) : Statement (.cWrRomB addr value) := by
  intro h
  obtain ⟨h, h'⟩ := inRange_bounds (lo := 0x2000) (hi := 0x3FFF) h
  exact ⟨fits (lo := 1) (hi := 1) (by omega) (by omega) (by decide) (by decide) (by decide), fun v => by cases v <;> rfl⟩

theorem cWrRamB (addr : Addr) (value : Byte) : Statement (.cWrRamB addr value) := by
  intro h
  obtain ⟨h, h'⟩ := inRange_bounds (lo := 0x4000) (hi := 0x5FFF) h
  exact ⟨fits (lo := 2) (hi := 2) (by omega) (by omega) (by decide) (by decide) (by decide), fun v => by cases v <;> rfl⟩

theorem cWrLatch (addr : Addr) (value : Byte) : Statement (.cWrLatch addr value) := by
  intro h
  obtain ⟨h, h'⟩ := inRange_bounds (lo := 0x6000) (hi := 0x7FFF) h
  exact ⟨fits (lo := 3) (hi := 3) (by omega) (by omega) (by decide) (by decide) (by decide), fun v => by cases v <;> rfl⟩

theorem cWrSave (addr : Addr) (value : Byte) : Statement (.cWrSave addr value) := by
  intro _
  have h := addr.isLt
  exact ⟨fits (lo := 0) (hi := 7) (by omega) (by omega) (by decide) (by decide) (by decide), fun v => by cases v <;> rfl⟩

theorem xRdProgOow (addr : Addr) : Statement (.xRdProgOow addr) := by
  intro h
  obtain ⟨h, h'⟩ := inRange_bounds (lo := 0x8000) (hi := 0xFFFF) h
  exact ⟨fits (lo := 4) (hi := 7) (by omega) (by omega) (by decide) (by decide) (by decide), fun v => by cases v <;> rfl⟩

theorem xWrCtrlUnmapped (addr : Addr) (value : Byte) : Statement (.xWrCtrlUnmapped addr value) := by
  intro h
  obtain ⟨h, h'⟩ := inRange_bounds (lo := 0x8000) (hi := 0xFFFF) h
  exact ⟨fits (lo := 4) (hi := 7) (by omega) (by omega) (by decide) (by decide) (by decide), fun v => by cases v <;> rfl⟩

theorem load (image : ByteString) (save : SaveFile) (rtcZeroInit : Seconds) :
    Statement (.load image save rtcZeroInit) := fun _ => trivial

theorem flush (answer : HostWrite) : Statement (.flush answer) := fun _ => trivial

end Sys2Proof.Laws.EncodingFitsRow
end

