-- ==== Sys2Proof/Tests/Slice0.lean ====
section
/-! SUPPORT. Tests. Expected results come from the spec: the words are written out from the layout of 30 R64 and the ranges
of 30 R67, the results from the vectors E1 to E10 and V1 to V17 and the programs P1 to P4 of 95_test_vectors.md, as each
test's comment says. A `witness_` theorem shows that the hypotheses of the statement it names can be met, clause by
clause. -/

namespace Sys2Proof.Tests

open Sys2Proof Sys2Proof.Machine

/-! ### Helpers -/

/-- The image `img(len, type, size)` of 95, with bank bytes left 0x00. -/
def image (len : Nat) (type size : Byte) : ByteString :=
  normalBytes { len := len, cells := [(0x147, type), (0x149, size)] }

/-- A device of a configuration, every register at its reset value. -/
def device (v : Variant) (romLen sram : Nat) (battery clock : Bool) (epoch : Option Int) : State :=
  { State.reset with
    config := some { variant := v, rom := { len := romLen, cells := [] }, sramSize := sram, battery := battery,
                     clockCapable := clock }
    rtcZero := epoch }

/-- The configuration of `device`. -/
def config (v : Variant) (romLen sram : Nat) (battery clock : Bool) : Configuration :=
  { variant := v, rom := { len := romLen, cells := [] }, sramSize := sram, battery := battery, clockCapable := clock }

/-- The next state, or the reset state where there is none. -/
def stateOf : StepResult → State
  | .next t => t
  | .fault _ => State.reset
  | .refused _ => State.reset

/-- The result is a next state that passes the check. -/
def leaves (r : StepResult) (p : State → Bool) : Bool :=
  match r with
  | .next t => p t
  | .fault _ => false
  | .refused _ => false

/-- The result is a next state: the one that `stateOf` gives. -/
abbrev goes (r : StepResult) : Prop := r = .next (stateOf r)

theorem goes_of_leaves {r : StepResult} (h : leaves r (fun _ => true) = true) : goes r := by
  cases r with
  | next t => rfl
  | fault f => simp [leaves] at h
  | refused x => simp [leaves] at h

/-- The result is this refusal. -/
def refuses (r : StepResult) (x : Refusal) : Bool :=
  match r with
  | .refused y => x == y
  | .next _ => false
  | .fault _ => false

/-- The operation enters this fault. -/
def faults (r : StepResult) (f : Fault) : Bool :=
  leaves r fun t => t.status == .faulted f && t.faultRecord == some f && t.response == .fault f

/-- The operation returns this byte. -/
def returns (r : StepResult) (v : Byte) : Bool := leaves r fun t => t.response == .byte v

/-- `LOAD` from reset. -/
def load (i : ByteString) (save : SaveFile) (init : Seconds) : StepResult := exec (.load i save init) State.reset

/-- A type 0x10 device with 0x8000 bytes of RAM, an epoch, RAM enabled, `ram_bank` and the draws to come. -/
def clock (epoch : Int) (bank : Byte) (draws : List Seconds) : State :=
  { device .c 0x8000 0x8000 true true (some epoch) with ramEnabled := true, ramBank := bank, timeAnswers := draws }

/-- The clock's five registers after an operation. -/
def shows (r : StepResult) (regs : List Byte) (epoch : Option Int) (draws : Nat) : Bool :=
  leaves r fun t => t.rtc.toList == regs && t.rtcZero == epoch && t.drawCount == draws

/-! ### WellFormed: an ill-formed term for each check -/

theorem test_ill_formed_a :
    ([.aRdRom 0x8000, .aWrCtrl 0x8000 0] : List Instr).all (fun i => !i.wellFormed) = true := by
  decide

theorem test_ill_formed_b :
    ([.bRdRom0 0x4000, .bRdRomX 0x3FFF, .bRdRomX 0x8000, .bWrRamEn 0x2000 0, .bWrRomLo 0x1FFF 0,
      .bWrRomLo 0x4000 0, .bWrBankHi 0x3FFF 0, .bWrBankHi 0x6000 0, .bWrMode 0x5FFF 0,
      .bWrMode 0x8000 0] : List Instr).all (fun i => !i.wellFormed) = true := by
  decide

theorem test_ill_formed_c :
    ([.cRdRom0 0x4000, .cRdRomX 0x3FFF, .cRdRomX 0x8000, .cWrRamEn 0x2000 0, .cWrRomB 0x1FFF 0,
      .cWrRomB 0x4000 0, .cWrRamB 0x3FFF 0, .cWrRamB 0x6000 0, .cWrLatch 0x5FFF 0,
      .cWrLatch 0x8000 0] : List Instr).all (fun i => !i.wellFormed) = true := by
  decide

theorem test_ill_formed_x :
    ([.xRdProgOow 0x7FFF, .xWrCtrlUnmapped 0x7FFF 0] : List Instr).all (fun i => !i.wellFormed) = true := by
  decide

theorem test_ill_formed_image_zero_listed : (Instr.load { len := 4, cells := [(1, 0)] } .absent 0).wellFormed = false := by
  decide

theorem test_ill_formed_image_order :
    (Instr.load { len := 4, cells := [(2, 1), (1, 1)] } .absent 0).wellFormed = false := by
  decide

theorem test_ill_formed_image_repeat :
    (Instr.load { len := 4, cells := [(1, 1), (1, 2)] } .absent 0).wellFormed = false := by
  decide

theorem test_ill_formed_image_past_end : (Instr.load { len := 4, cells := [(4, 1)] } .absent 0).wellFormed = false := by
  decide

theorem test_ill_formed_save :
    (Instr.load (image 0x149 0 0) (.bytes { len := 1, cells := [(1, 1)] }) 0).wellFormed = false := by
  decide

theorem test_well_formed_load :
    (Instr.load (image 0x149 0 0) (.bytes { len := 2, cells := [(1, 1)] }) 0).wellFormed = true := by
  decide

/-! ### Decoding: each form's word, bit by bit from 30 R64, R65 and the form's row of 30 R67 -/

theorem test_decode_aRdRom :
    decode .a 0b00000000010101000000000000#26 = .aRdRom 0x0150 ∧
      encode (.aRdRom 0x0150) = some 0b00000000010101000000000000#26 := by
  decide

theorem test_decode_aRdSave :
    decode .a 0b01101000000000000000000000#26 = .aRdSave 0xA000 ∧
      encode (.aRdSave 0xA000) = some 0b01101000000000000000000000#26 := by
  decide

theorem test_decode_aWrCtrl :
    decode .a 0b10001000000000000000000101#26 = .aWrCtrl 0x2000 0x05 ∧
      encode (.aWrCtrl 0x2000 0x05) = some 0b10001000000000000000000101#26 := by
  decide

theorem test_decode_aWrSave :
    decode .a 0b11101000000000000001010101#26 = .aWrSave 0xA000 0x55 ∧
      encode (.aWrSave 0xA000 0x55) = some 0b11101000000000000001010101#26 := by
  decide

theorem test_decode_bRdRom0 :
    decode .b 0b00000000010100011100000000#26 = .bRdRom0 0x0147 ∧
      encode (.bRdRom0 0x0147) = some 0b00000000010100011100000000#26 := by
  decide

theorem test_decode_bRdRomX :
    decode .b 0b00010000010010001100000000#26 = .bRdRomX 0x4123 ∧
      encode (.bRdRomX 0x4123) = some 0b00010000010010001100000000#26 := by
  decide

theorem test_decode_bRdSave :
    decode .b 0b01101000000000010100000000#26 = .bRdSave 0xA005 ∧
      encode (.bRdSave 0xA005) = some 0b01101000000000010100000000#26 := by
  decide

theorem test_decode_bWrRamEn :
    decode .b 0b10000111111111111100001010#26 = .bWrRamEn 0x1FFF 0x0A ∧
      encode (.bWrRamEn 0x1FFF 0x0A) = some 0b10000111111111111100001010#26 := by
  decide

theorem test_decode_bWrRomLo :
    decode .b 0b10001000000000000000000101#26 = .bWrRomLo 0x2000 0x05 ∧
      encode (.bWrRomLo 0x2000 0x05) = some 0b10001000000000000000000101#26 := by
  decide

theorem test_decode_bWrBankHi :
    decode .b 0b10010000000000000000000001#26 = .bWrBankHi 0x4000 0x01 ∧
      encode (.bWrBankHi 0x4000 0x01) = some 0b10010000000000000000000001#26 := by
  decide

theorem test_decode_bWrMode :
    decode .b 0b10011000000000000000000001#26 = .bWrMode 0x6000 0x01 ∧
      encode (.bWrMode 0x6000 0x01) = some 0b10011000000000000000000001#26 := by
  decide

theorem test_decode_bWrSave :
    decode .b 0b11101111111111111101011010#26 = .bWrSave 0xBFFF 0x5A ∧
      encode (.bWrSave 0xBFFF 0x5A) = some 0b11101111111111111101011010#26 := by
  decide

theorem test_decode_cRdRom0 :
    decode .c 0b00001111111111111100000000#26 = .cRdRom0 0x3FFF ∧
      encode (.cRdRom0 0x3FFF) = some 0b00001111111111111100000000#26 := by
  decide

theorem test_decode_cRdRomX :
    decode .c 0b00011111111111111100000000#26 = .cRdRomX 0x7FFF ∧
      encode (.cRdRomX 0x7FFF) = some 0b00011111111111111100000000#26 := by
  decide

theorem test_decode_cRdSave :
    decode .c 0b01101000010010001100000000#26 = .cRdSave 0xA123 ∧
      encode (.cRdSave 0xA123) = some 0b01101000010010001100000000#26 := by
  decide

theorem test_decode_cWrRamEn :
    decode .c 0b10000000000000000000001010#26 = .cWrRamEn 0x0000 0x0A ∧
      encode (.cWrRamEn 0x0000 0x0A) = some 0b10000000000000000000001010#26 := by
  decide

theorem test_decode_cWrRomB :
    decode .c 0b10001000000000000010000101#26 = .cWrRomB 0x2000 0x85 ∧
      encode (.cWrRomB 0x2000 0x85) = some 0b10001000000000000010000101#26 := by
  decide

theorem test_decode_cWrRamB :
    decode .c 0b10010000000000000000001100#26 = .cWrRamB 0x4000 0x0C ∧
      encode (.cWrRamB 0x4000 0x0C) = some 0b10010000000000000000001100#26 := by
  decide

theorem test_decode_cWrLatch :
    decode .c 0b10011111111111111100000001#26 = .cWrLatch 0x7FFF 0x01 ∧
      encode (.cWrLatch 0x7FFF 0x01) = some 0b10011111111111111100000001#26 := by
  decide

theorem test_decode_cWrSave :
    decode .c 0b11101000000000000001000000#26 = .cWrSave 0xA000 0x40 ∧
      encode (.cWrSave 0xA000 0x40) = some 0b11101000000000000001000000#26 := by
  decide

theorem test_decode_xRdProgOow :
    decode .a 0b00100000000000000000000000#26 = .xRdProgOow 0x8000 ∧
      encode (.xRdProgOow 0x8000) = some 0b00100000000000000000000000#26 := by
  decide

theorem test_decode_xWrCtrlUnmapped :
    decode .c 0b10111111111111111111111111#26 = .xWrCtrlUnmapped 0xFFFF 0xFF ∧
      encode (.xWrCtrlUnmapped 0xFFFF 0xFF) = some 0b10111111111111111111111111#26 := by
  decide

/-- A read means the same whatever its data bits hold (30 R66). -/
theorem test_decode_read_ignores_data : decode .c 0x1A0005A#26 = .cRdSave 0xA000 := by decide

theorem test_host_operations_have_no_word : encode (.flush .stored) = none ∧ encode (.load (image 0x149 0 0) .absent 0) = none := by
  decide

/-- The host's numbering: 26 bits in four bytes, read under Variant C (log 3). -/
theorem test_decodeTableWord : decodeTableWord 32 0x2200005 = some (.cWrRomB 0x2000 0x05) := by decide

theorem test_decodeTableWord_past_26_bits : decodeTableWord 32 0x4000000 = none := by decide

/-- The pseudo-operations' words, as P1 to P3 print them. -/
theorem test_pseudo_operations :
    pseudoRamOn = [0x200000A#26] ∧ pseudoRamOff = [0x2000000#26] ∧ pseudoRomBB 5 = [0x2200005#26] ∧
    pseudoRomBC 0xA0 = [0x2200020#26] ∧ pseudoBankHi 1 = [0x2400001#26] ∧ pseudoMode 1 = [0x2600001#26] ∧
    pseudoRamB 8 = [0x2400008#26] ∧ pseudoLatch = [0x2600000#26, 0x2600001#26] := by
  decide

/-! ### One step -/

/-- The first step after reset takes the word that the host places: C.WR_ROMB, 0x05. -/
theorem test_first_step : leaves (step (State.reset.withFetchWord 32 0x2200005)) (fun t => t.romBank == 0x05) = true := by
  decide

/-- The blank cartridge is a Variant C device. -/
theorem test_blank_cartridge : leaves (load blankCartridge .absent 0) (fun t => t.hasVariant tableVariant) = true := by
  decide

/-- P4, line 13: refused after a fault; a transaction before LOAD (60 R162); FLUSH again (V17). -/
theorem test_refusals :
    refuses (step { device .c 0x8000 0 false false none with
      status := .faulted (.rtcRegisterUnmapped 5), pending := [.word 0x0000000#26] }) .deviceFaulted = true ∧
    refuses (step { State.reset with pending := [.word 0x0000000#26] }) .noDevice = true ∧
    refuses (exec (.flush .stored) { device .c 0x8000 0 false false none with
      status := .flushed }) .deviceFlushed = true ∧
    refuses (exec (.aRdSave 0) (device .c 0x8000 0 false false none)) .formOfAnotherVariant = true := by
  decide

/-! ### Variant A -/

/-- V2: the 0x149-byte image. -/
theorem test_aRdRom :
    returns (exec (.aRdRom 0x0148) (device .a 0x149 0 false false none)) 0x00 = true ∧
    faults (exec (.aRdRom 0x0149) (device .a 0x149 0 false false none)) (.romIndexOutOfRange 0x149) = true := by
  decide

/-- R77's example: `ROM[0x0150] = 0xC3`. -/
theorem test_aRdRom_byte :
    returns (exec (.aRdRom 0x0150) { State.reset with config := some {
      config .a 0x8000 0 false false with rom := { len := 0x8000, cells := [(0x150, 0xC3)] } } }) 0xC3 = true := by
  decide

theorem test_aRdSave : returns (exec (.aRdSave 0xA000) (device .a 0x8000 0 false false none)) 0x00 = true := by decide

/-- V2: no state change. -/
theorem test_aWrCtrl :
    leaves (exec (.aWrCtrl 0x2000 0x05) (device .a 0x8000 0 false false none))
      (fun t => t == { device .a 0x8000 0 false false none with response := .done }) = true := by
  decide

theorem test_aWrSave :
    leaves (exec (.aWrSave 0xA000 0x55) (device .a 0x8000 0 false false none))
      (fun t => t == { device .a 0x8000 0 false false none with response := .done }) = true := by
  decide

/-- V2: the two illegal forms. -/
theorem test_xRdProgOow :
    faults (exec (.xRdProgOow 0xFFFF) (device .a 0x8000 0 false false none)) (.programAddressOutOfWindow 0xFFFF) = true := by
  decide

theorem test_xWrCtrlUnmapped :
    faults (exec (.xWrCtrlUnmapped 0x8000 0) (device .a 0x8000 0 false false none)) (.unmappedControlAddress 0x8000)
      = true := by
  decide

/-! ### Variant B -/

/-- P1, line 8: the type byte. -/
theorem test_bRdRom0 : returns (exec (.bRdRom0 0x0147) (stateOf (load (image 0x8000 0x03 0x03) .absent 0))) 0x03 = true := by
  decide

/-- V7: bank 0x25 at 0x4123 is index 0x94123. -/
theorem test_bRdRomX :
    returns (exec (.bRdRomX 0x4123) { State.reset with romBank := 0x25, config := some {
      config .b 0x200000 0 false false with
      rom := { len := 0x200000, cells := [(0x94123, 0x25)] } } }) 0x25 = true := by
  decide

/-- V7, last row. -/
theorem test_bRdRomX_outside :
    faults (exec (.bRdRomX 0x4000) { device .b 0x8000 0 false false none with romBank := 0x02 })
      (.romIndexOutOfRange 0x8000) = true := by
  decide

/-- R85's example. -/
theorem test_bRdSave :
    returns (exec (.bRdSave 0xA005) { device .b 0x8000 0x8000 true false none with
      ramEnabled := true, ramMode := true, ramBank := 2, sram := [(0x4005, 0x77)] }) 0x77 = true := by
  decide

/-- V8's gate order: 0 while disabled, the index fault once enabled. -/
theorem test_bRdSave_gates :
    returns (exec (.bRdSave 0xA000) { device .b 0x8000 0x800 true false none with ramMode := true, ramBank := 3 }) 0x00
      = true ∧
    faults (exec (.bRdSave 0xA000) { device .b 0x8000 0x800 true false none with
      ramMode := true, ramBank := 3, ramEnabled := true }) (.saveIndexOutOfRange 0x6000) = true := by
  decide

/-- V5: all eight bits are compared. -/
theorem test_bWrRamEn :
    leaves (exec (.bWrRamEn 0x0000 0x0A) (device .b 0x8000 0 false false none)) (fun t => t.ramEnabled) = true ∧
    leaves (exec (.bWrRamEn 0x1FFF 0x1A) { device .b 0x8000 0 false false none with ramEnabled := true })
      (fun t => !t.ramEnabled) = true := by
  decide

/-- V3, two corners. -/
theorem test_bWrRomLo :
    leaves (exec (.bWrRomLo 0x2000 0x20) { device .b 0x8000 0 false false none with romBank := 0x41 })
      (fun t => t.romBank == 0x41) = true ∧
    leaves (exec (.bWrRomLo 0x2000 0xFF) { device .b 0x8000 0 false false none with romBank := 0x60 })
      (fun t => t.romBank == 0x7F) = true := by
  decide

/-- V4: 0xFE in each mode. -/
theorem test_bWrBankHi :
    leaves (exec (.bWrBankHi 0x4000 0xFE) { device .b 0x8000 0 false false none with romBank := 0x05, ramBank := 2 })
      (fun t => t.romBank == 0x45 && t.ramBank == 2) = true ∧
    leaves (exec (.bWrBankHi 0x4000 0x07) { device .b 0x8000 0 false false none with
      romBank := 0x05, ramBank := 2, ramMode := true }) (fun t => t.romBank == 0x05 && t.ramBank == 3) = true := by
  decide

/-- V6. -/
theorem test_bWrMode :
    leaves (exec (.bWrMode 0x6000 0x02) { device .b 0x8000 0 false false none with ramMode := true })
      (fun t => !t.ramMode) = true ∧
    leaves (exec (.bWrMode 0x6000 0xFF) (device .b 0x8000 0 false false none)) (fun t => t.ramMode) = true := by
  decide

/-- V8: `addr[15:13]` is ignored. -/
theorem test_bWrSave :
    leaves (exec (.bWrSave 0xE5A5 0x5A) { device .b 0x8000 0x8000 true false none with
      ramEnabled := true, ramMode := true, ramBank := 2 }) (fun t => t.sram == [(0x45A5, 0x5A)]) = true := by
  decide

/-- V8: past the end, at the write; and storing 0x00 unlists the byte. -/
theorem test_bWrSave_outside :
    faults (exec (.bWrSave 0xA800 0x5A) { device .b 0x8000 0x800 true false none with ramEnabled := true })
      (.saveIndexOutOfRange 0x800) = true ∧
    leaves (exec (.bWrSave 0xA7FF 0x00) { device .b 0x8000 0x800 true false none with
      ramEnabled := true, sram := [(0x7FF, 0x5A)] }) (fun t => t.sram == []) = true := by
  decide

/-! ### Variant C -/

theorem test_cRdRom0 : returns (exec (.cRdRom0 0x0147) (stateOf (load (image 0x8000 0x13 0x03) .absent 0))) 0x13 = true := by
  decide

/-- P4, line 4: bank 0x20 is ROM[0x80000]. -/
theorem test_cRdRomX :
    returns (exec (.cRdRomX 0x4000) { State.reset with romBank := 0x20, config := some {
      config .c 0x200000 0 false false with
      rom := { len := 0x200000, cells := [(0x80000, 0x20)] } } }) 0x20 = true := by
  decide

/-- P4, lines 10 and 12: a register whatever the offset, then a selection that shows nothing. -/
theorem test_cRdSave :
    returns (exec (.cRdSave 0xBFFF) { device .c 0x8000 0x8000 true false none with
      ramEnabled := true, ramBank := 9, rtc := { RtcRegs.reset with minutes := 0x77 } }) 0x77 = true ∧
    faults (exec (.cRdSave 0xA000) { device .c 0x8000 0x8000 true false none with ramEnabled := true, ramBank := 5 })
      (.rtcRegisterUnmapped 5) = true := by
  decide

/-- V10: disabled reads 0 whatever is selected; type 0x0F reads 0 in bank 0. -/
theorem test_cRdSave_zero :
    returns (exec (.cRdSave 0xA000) { device .c 0x8000 0x8000 true false none with ramBank := 0xFF }) 0x00 = true ∧
    returns (exec (.cRdSave 0xA000) { device .c 0x8000 0 true true (some 0) with ramEnabled := true }) 0x00 = true := by
  decide

/-- V5. -/
theorem test_cWrRamEn :
    leaves (exec (.cWrRamEn 0x0000 0x0A) (device .c 0x8000 0 false false none)) (fun t => t.ramEnabled) = true ∧
    leaves (exec (.cWrRamEn 0x0000 0xFA) { device .c 0x8000 0 false false none with ramEnabled := true })
      (fun t => !t.ramEnabled) = true := by
  decide

/-- V9. -/
theorem test_cWrRomB :
    leaves (exec (.cWrRomB 0x2000 0x80) (device .c 0x8000 0 false false none)) (fun t => t.romBank == 0x01) = true ∧
    leaves (exec (.cWrRomB 0x2000 0x20) (device .c 0x8000 0 false false none)) (fun t => t.romBank == 0x20) = true := by
  decide

/-- V10: an unmapped value is stored and raises nothing. -/
theorem test_cWrRamB :
    leaves (exec (.cWrRamB 0x4000 0xFF) (device .c 0x8000 0 false false none))
      (fun t => t.ramBank == 0xFF && t.status == .running) = true := by
  decide

/-- V11: 511 days 23:59:59, flags kept at 0x3E in the second (256 days). -/
theorem test_cWrLatch :
    shows (exec (.cWrLatch 0x6000 0x01) (clock 0 8 [44236799])) [59, 59, 23, 255, 0x01] (some 0) 1 = true ∧
    shows (exec (.cWrLatch 0x6000 0x01) { clock 0 8 [22118400] with rtc := { RtcRegs.reset with flags := 0x3E } })
      [0, 0, 0, 0, 0x3F] (some 0) 1 = true := by
  decide

/-- V11: the overflow with distinct draws, and a draw before the epoch. -/
theorem test_cWrLatch_overflow :
    shows (exec (.cWrLatch 0x6000 0x01) (clock 0 8 [44236805, 44236808])) [5, 0, 0, 0, 0x80] (some 44236803) 2 = true ∧
    shows (exec (.cWrLatch 0x6000 0x01) (clock 0 8 [-5])) [0, 0, 0, 0, 0x00] (some 0) 1 = true := by
  decide

/-- V13, second row: the flags register, and the epoch −22469921. -/
theorem test_cWrSave_clock :
    shows (exec (.cWrSave 0xA000 0x01) { clock 0 0x0C [5000] with
      rtc := { seconds := 1, minutes := 2, hours := 3, dayLow := 4, flags := 0 } }) [1, 2, 3, 4,
      0x01] (some (-22469921)) 1
      = true := by
  decide

/-- V15: no epoch, no draw; V8's index shape in bank 3. -/
theorem test_cWrSave :
    shows (exec (.cWrSave 0xA000 0x33) { device .c 0x8000 0x2000 false false none with
      ramEnabled := true, ramBank := 9 })
      [0, 0x33, 0, 0, 0] none 0 = true ∧
    leaves (exec (.cWrSave 0xA123 0x44) { device .c 0x8000 0x8000 true false none with
      ramEnabled := true, ramBank := 3 })
      (fun t => t.sram == [(0x6123, 0x44)]) = true := by
  decide

/-! ### LOAD and FLUSH -/

/-- V16: the malformed and the small. -/
theorem test_load_faults :
    leaves (load (image 0x148 0x00 0) .absent 0) (fun t => t.response == .fault (.imageTooSmall 0x148)) = true ∧
    leaves (load (image 0x149 0x02 0) .absent 0) (fun t => t.response == .fault (.imageTooSmall 0x149)) = true ∧
    leaves (load (image 0x8000 0xFF 0) .absent 0) (fun t => t.response == .fault (.unsupportedCartridgeType 0xFF)) = true ∧
    leaves (load (image 0x8000 0x10 0x02) (.bytes { len := 0x2000, cells := [] }) 0)
      (fun t => t.response == .fault (.saveFileMalformed 0x2000) && t.config == none) = true := by
  decide

/-- V16, last row but one, and E7's restore. -/
theorem test_load :
    leaves (load (image 0x8000 0x11 0x02) (.bytes { len := 3, cells := [] }) 0)
      (fun t => t.hasVariant .c && t.sramLen == 0 && t.rtcZero == none) = true ∧
    leaves (load (image 0x8000 0x10 0x01)
        (.bytes { len := 0x808, cells := [(6, 0x03), (7, 0xE8), (8, 0xAB), (0x807, 0xCD)] }) 12345)
      (fun t => t.rtcZero == some 1000 && t.sram == [(0, 0xAB), (0x7FF, 0xCD)]) = true := by
  decide

/-- E7: the image of type 0x10, `rtc_zero = 1000`. -/
theorem test_flush :
    leaves (exec (.flush .stored) { device .c 0x8000 0x800 true true (some 1000) with
      sram := [(0, 0xAB), (0x7FF, 0xCD)] })
      (fun t => t.status == .flushed &&
        t.saveImage == some { len := 0x808, cells := [(6, 0x03), (7, 0xE8), (8, 0xAB), (0x807, 0xCD)] }) = true := by
  decide

/-- V17: the epoch out of range, and type 0x0F at −1. -/
theorem test_flush_epoch :
    leaves (exec (.flush .stored) (device .c 0x8000 0 true true (some (2 ^ 63 + 4))))
      (fun t => t.status == .flushed && t.faultRecord == some (.epochOutOfRange (2 ^ 63 + 4))) = true ∧
    leaves (exec (.flush .stored) (device .c 0x8000 0 true true (some (-1)))) (fun t => t.saveImage ==
      some { len := 8, cells := [(0, 0xFF), (1, 0xFF), (2, 0xFF), (3, 0xFF), (4, 0xFF), (5, 0xFF), (6, 0xFF), (7,
      0xFF)] }) = true := by
  decide

/-- 60 R147's codes and categories. -/
theorem test_fault_codes :
    [Fault.imageTooSmall 0, .unsupportedCartridgeType 0, .unmappedControlAddress 0, .saveFileIO .read,
      .programAddressOutOfWindow 0, .romIndexOutOfRange 0, .saveIndexOutOfRange 0, .rtcRegisterUnmapped 0,
      .saveFileMalformed 0, .epochOutOfRange 0].map Fault.code = [1, 2, 3, 4, 5, 6, 7, 8, 9, 10] ∧
    Fault.category (.rtcRegisterUnmapped 0) = .addressing ∧ Fault.category (.imageTooSmall 0) = .configuration ∧
    Fault.category (.saveFileMalformed 0) = .io := by
  decide


/-! ### Witnesses -/

theorem witness_DecodeOfEncodeIsTheForm_first :
    (Instr.bRdRomX 0x4000).wellFormed = true ∧ (Instr.bRdRomX 0x4000).inVariant .b = true ∧
      encode (.bRdRomX 0x4000) = some 0x0400000#26 := by
  decide

theorem witness_DecodeOfEncodeIsTheForm_last :
    (Instr.cWrLatch 0x7FFF 0xFF).wellFormed = true ∧ (Instr.cWrLatch 0x7FFF 0xFF).inVariant .c = true ∧
      encode (.cWrLatch 0x7FFF 0xFF) = some 0x27FFFFF#26 := by
  decide

theorem witness_DecodeOfEncodeIsTheForm_illegal :
    (Instr.xWrCtrlUnmapped 0x8000 0).wellFormed = true ∧ (Instr.xWrCtrlUnmapped 0x8000 0).inVariant .a = true ∧
      encode (.xWrCtrlUnmapped 0x8000 0) = some 0x2800000#26 := by
  decide

theorem witness_EncodeOfDecodeKeepsTheWord :
    wordOp 0x2FFFFFF#26 = .wrCtrl ∧ wordOp 0x3000000#26 = .wrSave ∧ wordOp 0x00000FF#26 = .rdProg ∧
      wordOp 0x1FFFFFF#26 = .rdSave := by
  decide

theorem witness_EveryWordMatchesExactlyItsRow :
    wordOp 0x0400000#26 = wordOp 0x05FFFFF#26 ∧
      (wordAddr 0x0400000#26).extractLsb' 13 3 = (wordAddr 0x05FFFFF#26).extractLsb' 13 3 := by
  decide

theorem witness_StepRunsTheDecodedWord :
    let s := { device .c 0x8000 0 false false none with pending := [.word 0x2200005#26] }
    s.config = some (config .c 0x8000 0 false false) ∧ s.pending = .word 0x2200005#26 :: [] := by
  decide

theorem witness_StepRunsHostOperationsAndIdles :
    { State.reset with
      pending := [.load (image 0x149 0 0) .absent 0] }.pending = .load (image 0x149 0 0) .absent 0 :: [] ∧
      { State.reset with pending := [.flush .failed] }.pending = .flush .failed :: [] ∧ State.reset.pending = [] ∧
      State.reset.config = none ∧ { State.reset with pending := [.word 0] }.pending = .word 0 :: [] := by
  decide

theorem witness_RunningAcceptsEveryWord :
    let s := { device .a 0x149 0 false false none with pending := [.word 0x2FFFFFF#26] }
    s.runs (config .a 0x149 0 false false) ∧ s.pending = .word 0x2FFFFFF#26 :: [] := by
  decide

/-- A loaded Variant B device with both selectors written. -/
def loadedB : State := { stateOf (load (image 0x8000 0x03 0x03) .absent 0) with ramBank := 3, romBank := 0x61 }

/-- The state after a LOAD of a clock device while that one is at hand. -/
def twoDevices : State := stateOf (exec (.load (image 0x8000 0x10 0x01) .absent 1000) loadedB)

/-- The device at hand, in a state that has one. -/
def deviceOf (s : State) : Device := s.asDevice.getD ((stateOf (load blankCartridge .absent 0)).asDevice.getD
  { config := config .a 0 0 false false, romBank := 1, ramBank := 0, ramEnabled := false, ramMode := false,
      latched := false,
    rtc := RtcRegs.reset, rtcZero := none, sram := [], status := .running, faultRecord := none, saveImage := none })

/-- 70 R163: a second LOAD makes a new device and does not change the existing one. -/
theorem test_second_load_keeps_the_first :
    twoDevices.others = [deviceOf loadedB] ∧ twoDevices.romBank = 0x01 ∧ twoDevices.hasVariant .c = true ∧
    (deviceOf loadedB).romBank = 0x61 := by
  decide

/-- 70 R163: a LOAD that fails changes no device. -/
theorem test_failed_load_keeps_the_device :
    leaves (exec (.load (image 0x148 0 0) .absent 0) loadedB) (fun t => t.devices == [deviceOf loadedB]) = true := by
  decide

/-- 70 R163 and 60 R158: the first device, brought to hand again after a write to the second, is as it was. -/
theorem test_first_device_comes_back :
    leaves (step { stateOf (exec (.cWrRomB 0x2000 0x05) twoDevices) with pending := [.select 0] })
      (fun t => t.asDevice == some (deviceOf loadedB) && t.others.map Device.romBank == [0x05]) = true := by
  decide

theorem test_no_such_device : refuses (step { twoDevices with pending := [.select 1] }) .noDevice = true := by decide

/-- 00 R7: the step relation takes the configuration as its argument, here that of Variant B for the word 0x2200020. -/
theorem test_stepUnder :
    leaves (stepUnder (config .b 0x8000 0 false false)
        { State.reset with romBank := 0x41, pending := [.word 0x2200020#26] }) (fun t => t.romBank == 0x41) = true := by
  decide

theorem witness_StepRunsHostOperationsAndIdles_turn :
    let s := { twoDevices with pending := [.select 0] }
    s.pending = .select 0 :: [] ∧ s.others[0]? = some (deviceOf loadedB) := by
  decide

theorem witness_StepRunsHostOperationsAndIdles_no_turn :
    let s := { twoDevices with pending := [.select 1] }
    s.pending = .select 1 :: [] ∧ s.others[1]? = none := by
  decide

theorem witness_LoadMakesADeviceOrNone_device :
    loadDevice (image 0x149 0 0) .absent 0 =
      .ok ({ config .a 0x149 0 false false with rom := image 0x149 0 0 }, [], none) := by
  rfl

theorem witness_LoadMakesADeviceOrNone_none :
    loadDevice (image 0x148 0 0) .absent 0 = .error (.imageTooSmall 0x148) := by
  rfl

theorem witness_LoadFollowsTheTypeTable_smallest :
    (0x00#8, Variant.a, false, false, false) ∈
        [(0x00#8, Variant.a, false, false, false), (0x01#8, Variant.b, false, false, false),
         (0x02#8, Variant.b, true, false, false), (0x03#8, Variant.b, true, true, false),
         (0x0F#8, Variant.c, false, true, true), (0x10#8, Variant.c, true, true, true),
         (0x11#8, Variant.c, false, false, false), (0x12#8, Variant.c, true, false, false),
         (0x13#8, Variant.c, true, true, false)] ∧
      (image 0x149 0x00 0).wf = true ∧ Memory.read (image 0x149 0x00 0).cells 0x147 = 0x00 ∧
      0x149 ≤ (image 0x149 0x00 0).len ∧ (false = true → 0x14A ≤ (image 0x149 0x00 0).len) := by
  decide

theorem witness_LoadFollowsTheTypeTable_size_byte :
    (0x03#8, Variant.b, true, true, false) ∈
        [(0x00#8, Variant.a, false, false, false), (0x01#8, Variant.b, false, false, false),
         (0x02#8, Variant.b, true, false, false), (0x03#8, Variant.b, true, true, false),
         (0x0F#8, Variant.c, false, true, true), (0x10#8, Variant.c, true, true, true),
         (0x11#8, Variant.c, false, false, false), (0x12#8, Variant.c, true, false, false),
         (0x13#8, Variant.c, true, true, false)] ∧
      (image 0x14A 0x03 3).wf = true ∧ Memory.read (image 0x14A 0x03 3).cells 0x147 = 0x03 ∧
      0x149 ≤ (image 0x14A 0x03 3).len ∧ (true = true → 0x14A ≤ (image 0x14A 0x03 3).len) := by
  decide

theorem witness_LoadFollowsTheTypeTable_clock :
    (0x10#8, Variant.c, true, true, true) ∈
        [(0x00#8, Variant.a, false, false, false), (0x01#8, Variant.b, false, false, false),
         (0x02#8, Variant.b, true, false, false), (0x03#8, Variant.b, true, true, false),
         (0x0F#8, Variant.c, false, true, true), (0x10#8, Variant.c, true, true, true),
         (0x11#8, Variant.c, false, false, false), (0x12#8, Variant.c, true, false, false),
         (0x13#8, Variant.c, true, true, false)] ∧
      (image 0x14A 0x10 3).wf = true ∧ Memory.read (image 0x14A 0x10 3).cells 0x147 = 0x10 ∧
      0x149 ≤ (image 0x14A 0x10 3).len ∧ (true = true → 0x14A ≤ (image 0x14A 0x10 3).len) := by
  decide

theorem witness_LoadNamesAnUnsupportedType :
    (image 0x149 0x04 0).wf = true ∧ 0x149 ≤ (image 0x149 0x04 0).len ∧
      Memory.read (image 0x149 0x04 0).cells 0x147 ∉
        [0x00#8, 0x01#8, 0x02#8, 0x03#8, 0x0F#8, 0x10#8, 0x11#8, 0x12#8, 0x13#8] := by
  decide

theorem witness_LoadRefusesASmallImage :
    (image 0x148 0x00 0).len < 0x149 ∧ (image 0x149 0x02 0).wf = true ∧ (image 0x149 0x02 0).len = 0x149 ∧
      Memory.read (image 0x149 0x02 0).cells 0x147 ∈ [0x02#8, 0x03#8, 0x10#8, 0x12#8, 0x13#8] := by
  decide

/-- The configuration that an image of a known type gives. -/
def configFor (i : ByteString) (type : Byte) : Configuration :=
  match typeTable type with
  | some kind => configOf i kind
  | none => config .a 0 0 false false

/-- `n` bytes of 0x00. -/
def zeros (n : Nat) : ByteString := { len := n, cells := [] }

theorem witness_LoadRestoresTheSaveFile_b :
    (image 0x8000 0x03 0x01).wf = true ∧
      readHeader (image 0x8000 0x03 0x01) = .ok (configFor (image 0x8000 0x03 0x01) 0x03) ∧
      (zeros 0x800).wf = true ∧
      (configFor (image 0x8000 0x03 0x01) 0x03).battery = true ∧
      (configFor (image 0x8000 0x03 0x01) 0x03).variant = .b ∧
      (zeros 0x800).len = (configFor (image 0x8000 0x03 0x01) 0x03).sramSize := by
  refine ⟨by decide, rfl, by decide, by decide, by decide, by decide⟩

theorem witness_LoadRestoresTheSaveFile_c_clock :
    (image 0x8000 0x0F 0x00).wf = true ∧
      readHeader (image 0x8000 0x0F 0x00) = .ok (configFor (image 0x8000 0x0F 0x00) 0x0F) ∧
      (zeros 8).wf = true ∧
      (configFor (image 0x8000 0x0F 0x00) 0x0F).battery = true ∧
      (configFor (image 0x8000 0x0F 0x00) 0x0F).variant = .c ∧
      (zeros 8).len = 8 + (configFor (image 0x8000 0x0F 0x00) 0x0F).sramSize ∧
      (configFor (image 0x8000 0x0F 0x00) 0x0F).clockCapable = true := by
  refine ⟨by decide, rfl, by decide, by decide, by decide, by decide, by decide⟩

theorem witness_LoadRestoresTheSaveFile_c :
    (image 0x8000 0x13 0x02).wf = true ∧
      readHeader (image 0x8000 0x13 0x02) = .ok (configFor (image 0x8000 0x13 0x02) 0x13) ∧
      (zeros 0x2008).wf = true ∧
      (configFor (image 0x8000 0x13 0x02) 0x13).battery = true ∧
      (configFor (image 0x8000 0x13 0x02) 0x13).variant = .c ∧
      (zeros 0x2008).len = 8 + (configFor (image 0x8000 0x13 0x02) 0x13).sramSize ∧
      (configFor (image 0x8000 0x13 0x02) 0x13).clockCapable = false := by
  refine ⟨by decide, rfl, by decide, by decide, by decide, by decide, by decide⟩

theorem witness_LoadRestoresTheSaveFile_malformed_b :
    (image 0x8000 0x03 0x00).wf = true ∧
      readHeader (image 0x8000 0x03 0x00) = .ok (configFor (image 0x8000 0x03 0x00) 0x03) ∧
      (zeros 1).wf = true ∧
      (configFor (image 0x8000 0x03 0x00) 0x03).battery = true ∧
      ((configFor (image 0x8000 0x03 0x00) 0x03).variant = .b → (zeros 1).len ≠ (configFor (image 0x8000 0x03 0x00) 0x03).sramSize) ∧
      ((configFor (image 0x8000 0x03 0x00) 0x03).variant = .c → (zeros 1).len ≠ 8 + (configFor (image 0x8000 0x03 0x00) 0x03).sramSize) := by
  refine ⟨by decide, rfl, by decide, by decide, by decide, by decide⟩

theorem witness_LoadRestoresTheSaveFile_malformed_c :
    (image 0x8000 0x0F 0x00).wf = true ∧
      readHeader (image 0x8000 0x0F 0x00) = .ok (configFor (image 0x8000 0x0F 0x00) 0x0F) ∧
      (zeros 7).wf = true ∧
      (configFor (image 0x8000 0x0F 0x00) 0x0F).battery = true ∧
      ((configFor (image 0x8000 0x0F 0x00) 0x0F).variant = .b → (zeros 7).len ≠ (configFor (image 0x8000 0x0F 0x00) 0x0F).sramSize) ∧
      ((configFor (image 0x8000 0x0F 0x00) 0x0F).variant = .c → (zeros 7).len ≠ 8 + (configFor (image 0x8000 0x0F 0x00) 0x0F).sramSize) := by
  refine ⟨by decide, rfl, by decide, by decide, by decide, by decide⟩

theorem witness_LoadRestoresTheSaveFile_unreadable :
    (image 0x8000 0x0F 0x00).wf = true ∧
      readHeader (image 0x8000 0x0F 0x00) = .ok (configFor (image 0x8000 0x0F 0x00) 0x0F) ∧
      (zeros 0).wf = true ∧
      (configFor (image 0x8000 0x0F 0x00) 0x0F).battery = true := by
  refine ⟨by decide, rfl, by decide, by decide⟩

theorem witness_LoadRestoresTheSaveFile_no_battery :
    (image 0x8000 0x12 0x03).wf = true ∧
      readHeader (image 0x8000 0x12 0x03) = .ok (configFor (image 0x8000 0x12 0x03) 0x12) ∧
      (zeros 3).wf = true ∧
      (configFor (image 0x8000 0x12 0x03) 0x12).battery = false := by
  refine ⟨by decide, rfl, by decide, by decide⟩

theorem witness_FlushWritesSramVerbatim :
    (device .b 0x8000 0x800 true false none).config = some (config .b 0x8000 0x800 true false) ∧
      (device .b 0x8000 0x800 true false none).status ≠ .flushed ∧
      (config .b 0x8000 0x800 true false).battery = true ∧ (config .b 0x8000 0x800 true false).variant = .b := by
  decide

theorem witness_FlushWritesEpochThenSram_least :
    let s := { device .c 0x8000 0x800 true true (some (-2 ^ 63)) with sram := [(0x7FF, 0xCD)] }
    let c := (config .c 0x8000 0x800 true true)
    s.sramSound ∧ s.config = some c ∧ s.status ≠ .flushed ∧ c.battery = true ∧ c.variant = .c ∧
      (c.clockCapable = true → s.rtcZero = some (-2 ^ 63)) ∧ (c.clockCapable = false → ((-2 ^ 63) : Int) = 0) ∧
      (-2 ^ 63 : Int) ≤ (-2 ^ 63) ∧ ((-2 ^ 63) : Int) ≤ 2 ^ 63 - 1 := by
  decide

theorem witness_FlushWritesEpochThenSram_greatest :
    let s := { device .c 0x8000 0x800 true true (some (2 ^ 63 - 1)) with sram := [(0x7FF, 0xCD)] }
    let c := (config .c 0x8000 0x800 true true)
    s.sramSound ∧ s.config = some c ∧ s.status ≠ .flushed ∧ c.battery = true ∧ c.variant = .c ∧
      (c.clockCapable = true → s.rtcZero = some (2 ^ 63 - 1)) ∧ (c.clockCapable = false → ((2 ^ 63 - 1) : Int) = 0) ∧
      (-2 ^ 63 : Int) ≤ (2 ^ 63 - 1) ∧ ((2 ^ 63 - 1) : Int) ≤ 2 ^ 63 - 1 := by
  decide

theorem witness_FlushWritesEpochThenSram_clockless :
    let s := (device .c 0x8000 0x2000 true false none)
    let c := (config .c 0x8000 0x2000 true false)
    s.sramSound ∧ s.config = some c ∧ s.status ≠ .flushed ∧ c.battery = true ∧ c.variant = .c ∧
      (c.clockCapable = true → s.rtcZero = some 0) ∧ (c.clockCapable = false → (0 : Int) = 0) ∧
      (-2 ^ 63 : Int) ≤ 0 ∧ (0 : Int) ≤ 2 ^ 63 - 1 := by
  decide

theorem witness_FlushFaultsEndTheDevice_above :
    let s := (device .c 0x8000 0 true true (some (2 ^ 63)))
    let c := (config .c 0x8000 0 true true)
    s.config = some c ∧ s.status ≠ .flushed ∧ c.battery = true ∧ c.variant = .c ∧ c.clockCapable = true ∧
      s.rtcZero = some (2 ^ 63) ∧ 2 ^ 63 - 1 < (2 ^ 63 : Int) := by
  decide

theorem witness_FlushFaultsEndTheDevice_below :
    let s := (device .c 0x8000 0 true true (some (-2 ^ 63 - 1)))
    let c := (config .c 0x8000 0 true true)
    s.config = some c ∧ s.status ≠ .flushed ∧ c.battery = true ∧ c.variant = .c ∧ c.clockCapable = true ∧
      s.rtcZero = some (-2 ^ 63 - 1) ∧ (-2 ^ 63 - 1 : Int) < -2 ^ 63 := by
  decide

theorem witness_FlushFaultsEndTheDevice_write_b :
    let s := { device .b 0x8000 0x800 true false none with status := .faulted (.saveIndexOutOfRange 0x800) }
    let c := (config .b 0x8000 0x800 true false)
    s.config = some c ∧ s.status ≠ .flushed ∧ c.battery = true ∧ c.variant = .b := by
  decide

theorem witness_FlushFaultsEndTheDevice_write_clockless :
    let s := (device .c 0x8000 0x800 true false none)
    let c := (config .c 0x8000 0x800 true false)
    s.config = some c ∧ s.status ≠ .flushed ∧ c.battery = true ∧ c.variant = .c ∧ c.clockCapable = false := by
  decide

theorem witness_FlushFaultsEndTheDevice_write_clock :
    let s := (device .c 0x8000 0x800 true true (some (-2 ^ 63)))
    let c := (config .c 0x8000 0x800 true true)
    s.config = some c ∧ s.status ≠ .flushed ∧ c.battery = true ∧ c.variant = .c ∧
      s.rtcZero = some (-2 ^ 63) ∧ (-2 ^ 63 : Int) ≤ -2 ^ 63 ∧ (-2 ^ 63 : Int) ≤ 2 ^ 63 - 1 := by
  decide

theorem witness_FlushCompletesWithItsFrame :
    let s := { device .b 0x8000 0x800 false false none with
      faultRecord := some (.saveIndexOutOfRange 0x800), status := .faulted (.saveIndexOutOfRange 0x800) }
    let t := stateOf (exec (.flush .failed) s)
    s.config = some (config .b 0x8000 0x800 false false) ∧ s.status ≠ .flushed ∧ exec (.flush .failed) s = .next t ∧
      s.faultRecord = some (.saveIndexOutOfRange 0x800) ∧ (config .b 0x8000 0x800 false false).battery = false ∧
      encode (.bRdSave 0) ≠ none := by
  exact ⟨by decide, by decide, goes_of_leaves (by decide), by decide, by decide, by decide⟩

/-- A loaded device of type 0x10 with 0x800 bytes of RAM, one of them written. -/
def loadedClock : State :=
  { stateOf (load (image 0x8000 0x10 0x01) .absent 1000) with sram := [(0x7FF, 0xCD)] }

theorem loadedClock_inv : loadedClock.Inv := by
  refine ⟨⟨fun c hc => ?_, by decide, by decide, by decide, by decide, by decide, by decide⟩, by decide⟩
  obtain rfl : configFor (image 0x8000 0x10 0x01) 0x10 = c := Option.some.inj hc
  exact ⟨rfl, by decide⟩

theorem twoDevices_inv : twoDevices.Inv := by
  refine ⟨⟨fun c hc => ?_, by decide, by decide, by decide, by decide, by decide, by decide⟩, fun d hd => ?_⟩
  · obtain rfl : configFor (image 0x8000 0x10 0x01) 0x10 = c := Option.some.inj hc
    exact ⟨rfl, by decide⟩
  · obtain rfl : d = deviceOf loadedB := List.mem_singleton.1 hd
    refine ⟨fun c hc => ?_, by decide, by decide, by decide, by decide, by decide, by decide⟩
    obtain rfl : configFor (image 0x8000 0x03 0x03) 0x03 = c := Option.some.inj hc
    exact ⟨rfl, by decide⟩

theorem witness_FlushThenLoadRestores :
    let s := loadedClock
    let c := configFor (image 0x8000 0x10 0x01) 0x10
    let t := stateOf (exec (.flush .stored) s)
    s.Inv ∧ s.config = some c ∧ c.battery = true ∧ exec (.flush .stored) s = .next t ∧
      t.saveImage = some { len := 0x808, cells := [(6, 0x03), (7, 0xE8), (0x807, 0xCD)] } ∧ t.response = .done := by
  exact ⟨loadedClock_inv, rfl, by decide, goes_of_leaves (by decide), by decide, by decide⟩

theorem witness_EqualEpochsShowEqualTime :
    let s := clock 1000 8 [91061]
    let v := { clock 1000 0 [91061] with rtc := { RtcRegs.reset with flags := 0x80 } }
    s.runs (config .c 0x8000 0x8000 true true) ∧ v.runs (config .c 0x8000 0x8000 true true) ∧
      (config .c 0x8000 0x8000 true true).variant = .c ∧ s.rtcZero = some 1000 ∧ v.rtcZero = some 1000 ∧
      s.nextDraw = v.nextDraw ∧ s.nextDraw - 1000 < 512 * 86400 ∧ s.latched = false ∧ v.latched = false ∧
      s.rtc.flags.getLsbD 6 = false ∧ v.rtc.flags.getLsbD 6 = false := by
  decide

theorem witness_EpochBytesRoundTrip :
    (-2 ^ 63 : Int) ≤ -2 ^ 63 ∧ (-2 ^ 63 : Int) ≤ 2 ^ 63 - 1 ∧ (-2 ^ 63 : Int) ≤ 2 ^ 63 - 1 ∧
      (2 ^ 63 - 1 : Int) ≤ 2 ^ 63 - 1 := by
  decide

theorem witness_VariantASaveWindowIsEmpty :
    (device .a 0x8000 0 false false none).runs (config .a 0x8000 0 false false) ∧
      (config .a 0x8000 0 false false).variant = .a := by
  decide

theorem witness_VariantAProgramWindow_inside :
    (device .a 0x8000 0 false false none).runs (config .a 0x8000 0 false false) ∧
      (config .a 0x8000 0 false false).variant = .a ∧ (0x7FFF : Addr).toNat < 0x8000 ∧
      (0x7FFF : Addr).toNat < (config .a 0x8000 0 false false).rom.len := by
  decide

theorem witness_VariantAProgramWindow_outside :
    (device .a 0x149 0 false false none).runs (config .a 0x149 0 false false) ∧
      (config .a 0x149 0 false false).variant = .a ∧ (0x0149 : Addr).toNat < 0x8000 ∧
      (config .a 0x149 0 false false).rom.len ≤ (0x0149 : Addr).toNat := by
  decide

theorem witness_VariantAKeepsItsState :
    let s := { device .a 0x8000 0 false false none with pending := [.word 0x2200005#26] }
    s.config = some (config .a 0x8000 0 false false) ∧ (config .a 0x8000 0 false false).variant = .a ∧
      s.pending = .word 0x2200005#26 :: [] ∧
      goes (step s) := by
  exact ⟨by decide, by decide, by decide, goes_of_leaves (by decide)⟩

theorem witness_FixedWindowShowsTheFirstBank_b_inside :
    (device .b 0x8000 0 false false none).runs (config .b 0x8000 0 false false) ∧ (0x3FFF : Addr).toNat < 0x4000 ∧
      (0x3FFF : Addr).toNat < (config .b 0x8000 0 false false).rom.len ∧
      (config .b 0x8000 0 false false).variant = .b := by
  decide

theorem witness_FixedWindowShowsTheFirstBank_b_outside :
    (device .b 0x149 0 false false none).runs (config .b 0x149 0 false false) ∧ (0x0149 : Addr).toNat < 0x4000 ∧
      (config .b 0x149 0 false false).rom.len ≤ (0x0149 : Addr).toNat ∧
      (config .b 0x149 0 false false).variant = .b := by
  decide

theorem witness_SwitchableWindowShowsTheSelectedBank_b_inside :
    let s := { device .b 0x8000 0 false false none with romBank := 1 }
    s.runs (config .b 0x8000 0 false false) ∧ 0x4000 ≤ (0x7FFF : Addr).toNat ∧ (0x7FFF : Addr).toNat < 0x8000 ∧
      0x7FFF = s.romBank.toNat * 0x4000 + ((0x7FFF : Addr).toNat - 0x4000) ∧
      0x7FFF < (config .b 0x8000 0 false false).rom.len ∧
      (config .b 0x8000 0 false false).variant = .b := by
  decide

theorem witness_SwitchableWindowShowsTheSelectedBank_b_outside :
    let s := { device .b 0x8000 0 false false none with romBank := 2 }
    s.runs (config .b 0x8000 0 false false) ∧ 0x4000 ≤ (0x4000 : Addr).toNat ∧ (0x4000 : Addr).toNat < 0x8000 ∧
      0x8000 = s.romBank.toNat * 0x4000 + ((0x4000 : Addr).toNat - 0x4000) ∧
      (config .b 0x8000 0 false false).rom.len ≤ 0x8000 ∧
      (config .b 0x8000 0 false false).variant = .b := by
  decide

theorem witness_FixedWindowShowsTheFirstBank_c_inside :
    (device .c 0x8000 0 false false none).runs (config .c 0x8000 0 false false) ∧ (0x3FFF : Addr).toNat < 0x4000 ∧
      (0x3FFF : Addr).toNat < (config .c 0x8000 0 false false).rom.len ∧
      (config .c 0x8000 0 false false).variant = .c := by
  decide

theorem witness_FixedWindowShowsTheFirstBank_c_outside :
    (device .c 0x149 0 false false none).runs (config .c 0x149 0 false false) ∧ (0x0149 : Addr).toNat < 0x4000 ∧
      (config .c 0x149 0 false false).rom.len ≤ (0x0149 : Addr).toNat ∧
      (config .c 0x149 0 false false).variant = .c := by
  decide

theorem witness_SwitchableWindowShowsTheSelectedBank_c_inside :
    let s := { device .c 0x8000 0 false false none with romBank := 1 }
    s.runs (config .c 0x8000 0 false false) ∧ 0x4000 ≤ (0x7FFF : Addr).toNat ∧ (0x7FFF : Addr).toNat < 0x8000 ∧
      0x7FFF = s.romBank.toNat * 0x4000 + ((0x7FFF : Addr).toNat - 0x4000) ∧
      0x7FFF < (config .c 0x8000 0 false false).rom.len ∧
      (config .c 0x8000 0 false false).variant = .c := by
  decide

theorem witness_SwitchableWindowShowsTheSelectedBank_c_outside :
    let s := { device .c 0x8000 0 false false none with romBank := 2 }
    s.runs (config .c 0x8000 0 false false) ∧ 0x4000 ≤ (0x4000 : Addr).toNat ∧ (0x4000 : Addr).toNat < 0x8000 ∧
      0x8000 = s.romBank.toNat * 0x4000 + ((0x4000 : Addr).toNat - 0x4000) ∧
      (config .c 0x8000 0 false false).rom.len ≤ 0x8000 ∧
      (config .c 0x8000 0 false false).variant = .c := by
  decide

theorem witness_RamEnableComparesTheWholeByte :
    let s := (device .b 0x8000 0x8000 true false none)
    s.runs (config .b 0x8000 0x8000 true false) ∧ (config .b 0x8000 0x8000 true false).variant = .b ∧
      (0x0000 : Addr).toNat < 0x2000 ∧ (0x1FFF : Addr).toNat < 0x2000 ∧
      (0x1A : Byte) ≠ 0x0A := by
  decide

theorem witness_RomLowBitsAreCoerced :
    let s := (device .b 0x8000 0x8000 true false none)
    s.runs (config .b 0x8000 0x8000 true false) ∧ (config .b 0x8000 0x8000 true false).variant = .b ∧
      0x2000 ≤ (0x2000 : Addr).toNat ∧ (0x2000 : Addr).toNat < 0x4000 ∧ 0x2000 ≤ (0x3FFF : Addr).toNat ∧
      (0x3FFF : Addr).toNat < 0x4000 := by
  decide

theorem witness_BankHighIsRoutedByTheMode_rom :
    let s := (device .b 0x8000 0x8000 true false none)
    s.runs (config .b 0x8000 0x8000 true false) ∧ (config .b 0x8000 0x8000 true false).variant = .b ∧
      0x4000 ≤ (0x4000 : Addr).toNat ∧ (0x4000 : Addr).toNat < 0x6000 ∧ 0x4000 ≤ (0x5FFF : Addr).toNat ∧
      (0x5FFF : Addr).toNat < 0x6000 ∧
      s.ramMode = false := by
  decide

theorem witness_BankHighIsRoutedByTheMode_ram :
    let s := { device .b 0x8000 0x8000 true false none with ramMode := true }
    s.runs (config .b 0x8000 0x8000 true false) ∧ (config .b 0x8000 0x8000 true false).variant = .b ∧
      0x4000 ≤ (0x4000 : Addr).toNat ∧ (0x4000 : Addr).toNat < 0x6000 ∧ 0x4000 ≤ (0x5FFF : Addr).toNat ∧
      (0x5FFF : Addr).toNat < 0x6000 ∧
      s.ramMode = true := by
  decide

theorem witness_ModeIsBitZero :
    let s := (device .b 0x8000 0x8000 true false none)
    s.runs (config .b 0x8000 0x8000 true false) ∧ (config .b 0x8000 0x8000 true false).variant = .b ∧
      0x6000 ≤ (0x6000 : Addr).toNat ∧ (0x6000 : Addr).toNat < 0x8000 ∧ 0x6000 ≤ (0x7FFF : Addr).toNat ∧
      (0x7FFF : Addr).toNat < 0x8000 := by
  decide

theorem witness_VariantCRamEnable :
    let s := (device .c 0x8000 0x8000 true false none)
    s.runs (config .c 0x8000 0x8000 true false) ∧ (config .c 0x8000 0x8000 true false).variant = .c ∧
      (0x0000 : Addr).toNat < 0x2000 ∧ (0x1FFF : Addr).toNat < 0x2000 ∧
      (0xFA : Byte) ≠ 0x0A := by
  decide

theorem witness_VariantCRomBank :
    let s := (device .c 0x8000 0x8000 true false none)
    s.runs (config .c 0x8000 0x8000 true false) ∧ (config .c 0x8000 0x8000 true false).variant = .c ∧
      0x2000 ≤ (0x2000 : Addr).toNat ∧ (0x2000 : Addr).toNat < 0x4000 ∧ 0x2000 ≤ (0x3FFF : Addr).toNat ∧
      (0x3FFF : Addr).toNat < 0x4000 := by
  decide

theorem witness_VariantCRamBank :
    let s := (device .c 0x8000 0x8000 true false none)
    s.runs (config .c 0x8000 0x8000 true false) ∧ (config .c 0x8000 0x8000 true false).variant = .c ∧
      0x4000 ≤ (0x4000 : Addr).toNat ∧ (0x4000 : Addr).toNat < 0x6000 ∧ 0x4000 ≤ (0x5FFF : Addr).toNat ∧
      (0x5FFF : Addr).toNat < 0x6000 := by
  decide

theorem witness_LatchIsEdgeTriggered :
    let s := (device .c 0x8000 0x8000 true false none)
    s.runs (config .c 0x8000 0x8000 true false) ∧ (config .c 0x8000 0x8000 true false).variant = .c ∧
      0x6000 ≤ (0x6000 : Addr).toNat ∧ (0x6000 : Addr).toNat < 0x8000 ∧ 0x6000 ≤ (0x7FFF : Addr).toNat ∧
      (0x7FFF : Addr).toNat < 0x8000 ∧
      s.latched = false := by
  decide

theorem witness_LatchIsEdgeTriggered_no_op :
    let s := { device .c 0x8000 0x8000 true false none with latched := true }
    s.runs (config .c 0x8000 0x8000 true false) ∧ (config .c 0x8000 0x8000 true false).variant = .c ∧
      0x6000 ≤ (0x6000 : Addr).toNat ∧ (0x6000 : Addr).toNat < 0x8000 ∧ 0x6000 ≤ (0x7FFF : Addr).toNat ∧
      (0x7FFF : Addr).toNat < 0x8000 ∧
      (0x01 : Byte) ≠ 0x00 ∧ ((0x01 : Byte) = 0x01 → s.latched = true) ∧ (0x02 : Byte) ≠ 0x00 ∧
      ((0x02 : Byte) = 0x01 → s.latched = true) := by
  decide

theorem witness_VariantBSaveRead_absent :
    let s := { device .b 0x8000 0 false false none with ramEnabled := true }
    let c := (config .b 0x8000 0 false false)
    s.runs c ∧ c.variant = .b ∧
      0 = (if s.ramMode = true then s.ramBank.toNat else 0) * 0x2000 + (0xA000 : Addr).toNat % 0x2000 ∧
      c.sramSize = 0 := by
  decide

theorem witness_VariantBSaveRead_disabled :
    let s := { device .b 0x8000 0x8000 false false none with ramEnabled := false }
    let c := (config .b 0x8000 0x8000 false false)
    s.runs c ∧ c.variant = .b ∧
      0x1FFF = (if s.ramMode = true then s.ramBank.toNat else 0) * 0x2000 + (0xBFFF : Addr).toNat % 0x2000 ∧
      s.ramEnabled = false := by
  decide

theorem witness_VariantBSaveRead_inside :
    let s := { device .b 0x8000 0x8000 false false none with ramEnabled := true, ramMode := true, ramBank := 3 }
    let c := (config .b 0x8000 0x8000 false false)
    s.runs c ∧ c.variant = .b ∧
      0x7FFF = (if s.ramMode = true then s.ramBank.toNat else 0) * 0x2000 + (0xBFFF : Addr).toNat % 0x2000 ∧
      c.sramSize ≠ 0 ∧ s.ramEnabled = true ∧ 0x7FFF < c.sramSize := by
  decide

theorem witness_VariantBSaveRead_outside :
    let s := { device .b 0x8000 0x800 false false none with ramEnabled := true, ramBank := 3 }
    let c := (config .b 0x8000 0x800 false false)
    s.runs c ∧ c.variant = .b ∧
      0x800 = (if s.ramMode = true then s.ramBank.toNat else 0) * 0x2000 + (0xA800 : Addr).toNat % 0x2000 ∧
      c.sramSize ≠ 0 ∧ s.ramEnabled = true ∧ c.sramSize ≤ 0x800 := by
  decide

theorem witness_VariantBSaveWrite_absent :
    let s := { device .b 0x8000 0 false false none with ramEnabled := true }
    let c := (config .b 0x8000 0 false false)
    s.runs c ∧ c.variant = .b ∧ s.sramSound ∧
      0 = (if s.ramMode = true then s.ramBank.toNat else 0) * 0x2000 + (0xA000 : Addr).toNat % 0x2000 ∧
      c.sramSize = 0 := by
  decide

theorem witness_VariantBSaveWrite_disabled :
    let s := { device .b 0x8000 0x8000 false false none with ramEnabled := false }
    let c := (config .b 0x8000 0x8000 false false)
    s.runs c ∧ c.variant = .b ∧ s.sramSound ∧
      0x1FFF = (if s.ramMode = true then s.ramBank.toNat else 0) * 0x2000 + (0xBFFF : Addr).toNat % 0x2000 ∧
      s.ramEnabled = false := by
  decide

theorem witness_VariantBSaveWrite_inside :
    let s := { device .b 0x8000 0x8000 false false none with ramEnabled := true, ramMode := true, ramBank := 3 }
    let c := (config .b 0x8000 0x8000 false false)
    s.runs c ∧ c.variant = .b ∧ s.sramSound ∧
      0x7FFF = (if s.ramMode = true then s.ramBank.toNat else 0) * 0x2000 + (0xBFFF : Addr).toNat % 0x2000 ∧
      c.sramSize ≠ 0 ∧ s.ramEnabled = true ∧ 0x7FFF < c.sramSize := by
  decide

theorem witness_VariantBSaveWrite_outside :
    let s := { device .b 0x8000 0x800 false false none with ramEnabled := true, ramBank := 3 }
    let c := (config .b 0x8000 0x800 false false)
    s.runs c ∧ c.variant = .b ∧ s.sramSound ∧
      0x800 = (if s.ramMode = true then s.ramBank.toNat else 0) * 0x2000 + (0xA800 : Addr).toNat % 0x2000 ∧
      c.sramSize ≠ 0 ∧ s.ramEnabled = true ∧ c.sramSize ≤ 0x800 := by
  decide

theorem witness_VariantCSaveRead_disabled :
    let s := { device .c 0x8000 0x8000 false false none with ramBank := 0xFF }
    let c := (config .c 0x8000 0x8000 false false)
    s.runs c ∧ c.variant = .c ∧ 0x1FE000 = s.ramBank.toNat * 0x2000 + (0xA000 : Addr).toNat % 0x2000 ∧
      s.ramEnabled = false := by
  decide

theorem witness_VariantCSaveRead_absent :
    let s := { device .c 0x8000 0 false false none with ramEnabled := true, ramBank := 3 }
    let c := (config .c 0x8000 0 false false)
    s.runs c ∧ c.variant = .c ∧ 0x6000 = s.ramBank.toNat * 0x2000 + (0xA000 : Addr).toNat % 0x2000 ∧
      s.ramEnabled = true ∧ s.ramBank.toNat ≤ 3 ∧ c.sramSize = 0 := by
  decide

theorem witness_VariantCSaveRead_inside :
    let s := { device .c 0x8000 0x8000 false false none with ramEnabled := true, ramBank := 3 }
    let c := (config .c 0x8000 0x8000 false false)
    s.runs c ∧ c.variant = .c ∧ 0x7FFF = s.ramBank.toNat * 0x2000 + (0xBFFF : Addr).toNat % 0x2000 ∧
      s.ramEnabled = true ∧ s.ramBank.toNat ≤ 3 ∧ c.sramSize ≠ 0 ∧ 0x7FFF < c.sramSize := by
  decide

theorem witness_VariantCSaveRead_outside :
    let s := { device .c 0x8000 0x2000 false false none with ramEnabled := true, ramBank := 1 }
    let c := (config .c 0x8000 0x2000 false false)
    s.runs c ∧ c.variant = .c ∧ 0x2000 = s.ramBank.toNat * 0x2000 + (0xA000 : Addr).toNat % 0x2000 ∧
      s.ramEnabled = true ∧ s.ramBank.toNat ≤ 3 ∧ c.sramSize ≠ 0 ∧ c.sramSize ≤ 0x2000 := by
  decide

theorem witness_VariantCSaveRead_unmapped_4 :
    let s := { device .c 0x8000 0x2000 false false none with ramEnabled := true, ramBank := 4 }
    let c := (config .c 0x8000 0x2000 false false)
    s.runs c ∧ c.variant = .c ∧ 0x8000 = s.ramBank.toNat * 0x2000 + (0xA000 : Addr).toNat % 0x2000 ∧
      s.ramEnabled = true ∧ (4 ≤ s.ramBank.toNat ∧ s.ramBank.toNat ≤ 7 ∨ 13 ≤ s.ramBank.toNat) := by
  decide

theorem witness_VariantCSaveRead_unmapped_7 :
    let s := { device .c 0x8000 0x2000 false false none with ramEnabled := true, ramBank := 7 }
    let c := (config .c 0x8000 0x2000 false false)
    s.runs c ∧ c.variant = .c ∧ 0xe000 = s.ramBank.toNat * 0x2000 + (0xA000 : Addr).toNat % 0x2000 ∧
      s.ramEnabled = true ∧ (4 ≤ s.ramBank.toNat ∧ s.ramBank.toNat ≤ 7 ∨ 13 ≤ s.ramBank.toNat) := by
  decide

theorem witness_VariantCSaveRead_unmapped_13 :
    let s := { device .c 0x8000 0x2000 false false none with ramEnabled := true, ramBank := 13 }
    let c := (config .c 0x8000 0x2000 false false)
    s.runs c ∧ c.variant = .c ∧ 0x1a000 = s.ramBank.toNat * 0x2000 + (0xA000 : Addr).toNat % 0x2000 ∧
      s.ramEnabled = true ∧ (4 ≤ s.ramBank.toNat ∧ s.ramBank.toNat ≤ 7 ∨ 13 ≤ s.ramBank.toNat) := by
  decide

theorem witness_VariantCSaveRead_unmapped_255 :
    let s := { device .c 0x8000 0x2000 false false none with ramEnabled := true, ramBank := 255 }
    let c := (config .c 0x8000 0x2000 false false)
    s.runs c ∧ c.variant = .c ∧ 0x1fe000 = s.ramBank.toNat * 0x2000 + (0xA000 : Addr).toNat % 0x2000 ∧
      s.ramEnabled = true ∧ (4 ≤ s.ramBank.toNat ∧ s.ramBank.toNat ≤ 7 ∨ 13 ≤ s.ramBank.toNat) := by
  decide

theorem witness_VariantCSaveWrite_disabled :
    let s := { device .c 0x8000 0x8000 false false none with ramBank := 0xFF }
    let c := (config .c 0x8000 0x8000 false false)
    s.runs c ∧ c.variant = .c ∧ s.sramSound ∧ 0x1FE000 = s.ramBank.toNat * 0x2000 + (0xA000 : Addr).toNat % 0x2000 ∧
      s.ramEnabled = false := by
  decide

theorem witness_VariantCSaveWrite_absent :
    let s := { device .c 0x8000 0 false false none with ramEnabled := true, ramBank := 3 }
    let c := (config .c 0x8000 0 false false)
    s.runs c ∧ c.variant = .c ∧ s.sramSound ∧ 0x6000 = s.ramBank.toNat * 0x2000 + (0xA000 : Addr).toNat % 0x2000 ∧
      s.ramEnabled = true ∧ s.ramBank.toNat ≤ 3 ∧ c.sramSize = 0 := by
  decide

theorem witness_VariantCSaveWrite_inside :
    let s := { device .c 0x8000 0x8000 false false none with ramEnabled := true, ramBank := 3 }
    let c := (config .c 0x8000 0x8000 false false)
    s.runs c ∧ c.variant = .c ∧ s.sramSound ∧ 0x7FFF = s.ramBank.toNat * 0x2000 + (0xBFFF : Addr).toNat % 0x2000 ∧
      s.ramEnabled = true ∧ s.ramBank.toNat ≤ 3 ∧ c.sramSize ≠ 0 ∧ 0x7FFF < c.sramSize := by
  decide

theorem witness_VariantCSaveWrite_outside :
    let s := { device .c 0x8000 0x2000 false false none with ramEnabled := true, ramBank := 1 }
    let c := (config .c 0x8000 0x2000 false false)
    s.runs c ∧ c.variant = .c ∧ s.sramSound ∧ 0x2000 = s.ramBank.toNat * 0x2000 + (0xA000 : Addr).toNat % 0x2000 ∧
      s.ramEnabled = true ∧ s.ramBank.toNat ≤ 3 ∧ c.sramSize ≠ 0 ∧ c.sramSize ≤ 0x2000 := by
  decide

theorem witness_VariantCSaveWrite_unmapped_4 :
    let s := { device .c 0x8000 0x2000 false false none with ramEnabled := true, ramBank := 4 }
    let c := (config .c 0x8000 0x2000 false false)
    s.runs c ∧ c.variant = .c ∧ s.sramSound ∧ 0x8000 = s.ramBank.toNat * 0x2000 + (0xA000 : Addr).toNat % 0x2000 ∧
      s.ramEnabled = true ∧ (4 ≤ s.ramBank.toNat ∧ s.ramBank.toNat ≤ 7 ∨ 13 ≤ s.ramBank.toNat) := by
  decide

theorem witness_VariantCSaveWrite_unmapped_7 :
    let s := { device .c 0x8000 0x2000 false false none with ramEnabled := true, ramBank := 7 }
    let c := (config .c 0x8000 0x2000 false false)
    s.runs c ∧ c.variant = .c ∧ s.sramSound ∧ 0xe000 = s.ramBank.toNat * 0x2000 + (0xA000 : Addr).toNat % 0x2000 ∧
      s.ramEnabled = true ∧ (4 ≤ s.ramBank.toNat ∧ s.ramBank.toNat ≤ 7 ∨ 13 ≤ s.ramBank.toNat) := by
  decide

theorem witness_VariantCSaveWrite_unmapped_13 :
    let s := { device .c 0x8000 0x2000 false false none with ramEnabled := true, ramBank := 13 }
    let c := (config .c 0x8000 0x2000 false false)
    s.runs c ∧ c.variant = .c ∧ s.sramSound ∧ 0x1a000 = s.ramBank.toNat * 0x2000 + (0xA000 : Addr).toNat % 0x2000 ∧
      s.ramEnabled = true ∧ (4 ≤ s.ramBank.toNat ∧ s.ramBank.toNat ≤ 7 ∨ 13 ≤ s.ramBank.toNat) := by
  decide

theorem witness_VariantCSaveWrite_unmapped_255 :
    let s := { device .c 0x8000 0x2000 false false none with ramEnabled := true, ramBank := 255 }
    let c := (config .c 0x8000 0x2000 false false)
    s.runs c ∧ c.variant = .c ∧ s.sramSound ∧ 0x1fe000 = s.ramBank.toNat * 0x2000 + (0xA000 : Addr).toNat % 0x2000 ∧
      s.ramEnabled = true ∧ (4 ≤ s.ramBank.toNat ∧ s.ramBank.toNat ≤ 7 ∨ 13 ≤ s.ramBank.toNat) := by
  decide

theorem witness_VariantCSaveRead_clock_8 :
    let s := { device .c 0x8000 0x2000 false false none with ramEnabled := true, ramBank := 8 }
    let c := (config .c 0x8000 0x2000 false false)
    s.runs c ∧ c.variant = .c ∧ 0x10000 = s.ramBank.toNat * 0x2000 + (0xA000 : Addr).toNat % 0x2000 ∧
      s.ramEnabled = true ∧ 8 ≤ s.ramBank.toNat ∧ s.ramBank.toNat ≤ 12 := by
  decide

theorem witness_VariantCSaveRead_clock_12 :
    let s := { device .c 0x8000 0x2000 false false none with ramEnabled := true, ramBank := 12 }
    let c := (config .c 0x8000 0x2000 false false)
    s.runs c ∧ c.variant = .c ∧ 0x18000 = s.ramBank.toNat * 0x2000 + (0xA000 : Addr).toNat % 0x2000 ∧
      s.ramEnabled = true ∧ 8 ≤ s.ramBank.toNat ∧ s.ramBank.toNat ≤ 12 := by
  decide

theorem witness_EveryLegalBankIsReachable_b :
    let s := (device .b 0x200000 0 false false none)
    s.runs (config .b 0x200000 0 false false) ∧ (0x1F : Byte).toNat = (0x7F : BitVec 7).toNat % 32 ∧
      (0x03 : Byte).toNat = (0x7F : BitVec 7).toNat / 32 ∧ (config .b 0x200000 0 false false).variant = .b ∧
      s.ramMode = false ∧ (0x1F : Byte) ≠ 0 := by
  decide

theorem witness_EveryLegalBankIsReachable_c :
    let s := (device .c 0x200000 0 false false none)
    s.runs (config .c 0x200000 0 false false) ∧ (0x00 : Byte).toNat = (0x20 : BitVec 7).toNat % 32 ∧
      (0x01 : Byte).toNat = (0x20 : BitVec 7).toNat / 32 ∧ (config .c 0x200000 0 false false).variant = .c ∧
      (0x20 : BitVec 7) ≠ 0 := by
  decide

theorem witness_ClockWriteRebasesTheEpoch_epoch_8 :
    let s := clock 0 8 [5000]
    s.runs (config .c 0x8000 0x8000 true true) ∧ (config .c 0x8000 0x8000 true true).variant = .c ∧
      s.ramEnabled = true ∧
      8 ≤ s.ramBank.toNat ∧ s.ramBank.toNat ≤ 12 ∧ s.rtcZero = some 0 := by
  decide

theorem witness_ClockWriteRebasesTheEpoch_epoch_12 :
    let s := clock 0 12 [5000]
    s.runs (config .c 0x8000 0x8000 true true) ∧ (config .c 0x8000 0x8000 true true).variant = .c ∧
      s.ramEnabled = true ∧
      8 ≤ s.ramBank.toNat ∧ s.ramBank.toNat ≤ 12 ∧ s.rtcZero = some 0 := by
  decide

theorem witness_ClockWriteRebasesTheEpoch_no_epoch :
    let s := { device .c 0x8000 0x2000 false false none with ramEnabled := true, ramBank := 9 }
    s.runs (config .c 0x8000 0x2000 false false) ∧ (config .c 0x8000 0x2000 false false).variant = .c ∧
      s.ramEnabled = true ∧
      8 ≤ s.ramBank.toNat ∧ s.ramBank.toNat ≤ 12 ∧ s.rtcZero = none := by
  decide

theorem witness_HaltedOrUnclockedCaptureKeepsTheRegisters_halted :
    let s := { clock 0 8 [100] with rtc := { RtcRegs.reset with flags := 0x40 } }
    s.rtc.flags.getLsbD 6 = true ∧ s.runs (config .c 0x8000 0x8000 true true) ∧
      (config .c 0x8000 0x8000 true true).variant = .c ∧ s.latched = false := by
  decide

theorem witness_HaltedOrUnclockedCaptureKeepsTheRegisters_unclocked :
    let s := (device .c 0x8000 0 false false none)
    s.rtcZero = none ∧ s.runs (config .c 0x8000 0 false false) ∧ (config .c 0x8000 0 false false).variant = .c ∧
      s.latched = false := by
  decide

theorem witness_CaptureShowsTheElapsedTime_last :
    let s := clock 0 8 [44236799]
    s.runs (config .c 0x8000 0x8000 true true) ∧ (config .c 0x8000 0x8000 true true).variant = .c ∧
      s.latched = false ∧ s.rtcZero = some 0 ∧
      s.rtc.flags.getLsbD 6 = false ∧ ((44236799 : Nat) : Int) = max 0 (s.nextDraw - 0) ∧ 44236799 / 86400 < 512 := by
  decide

theorem witness_CaptureShowsTheElapsedTime_before_epoch :
    let s := clock 0 8 [-5]
    s.runs (config .c 0x8000 0x8000 true true) ∧ (config .c 0x8000 0x8000 true true).variant = .c ∧
      s.latched = false ∧ s.rtcZero = some 0 ∧
      s.rtc.flags.getLsbD 6 = false ∧ ((0 : Nat) : Int) = max 0 (s.nextDraw - 0) ∧ 0 / 86400 < 512 := by
  decide

theorem witness_CaptureOverflowSetsCarryAndRebases :
    let s := clock 0 8 [44236800, 44236801]
    s.runs (config .c 0x8000 0x8000 true true) ∧ (config .c 0x8000 0x8000 true true).variant = .c ∧
      s.latched = false ∧ s.rtcZero = some 0 ∧
      s.rtc.flags.getLsbD 6 = false ∧ ((44236800 : Nat) : Int) = s.nextDraw - 0 ∧ 512 ≤ 44236800 / 86400 := by
  decide

/-- V13, third row: 255 seconds written at 1000, captured at 1010. -/
theorem witness_CaptureCountsFromTheWrite :
    let s := clock 0 8 [1000, 1010]
    let t := stateOf (exec (.cWrSave 0xA000 0xFF) s)
    s.runs (config .c 0x8000 0x8000 true true) ∧ (config .c 0x8000 0x8000 true true).variant = .c ∧
      s.ramEnabled = true ∧
      8 ≤ s.ramBank.toNat ∧ s.ramBank.toNat ≤ 12 ∧ s.latched = false ∧ s.rtcZero ≠ none ∧
      exec (.cWrSave 0xA000 0xFF) s = .next t ∧ t.rtc.flags.getLsbD 6 = false ∧
      ((265 : Nat) : Int) = t.rtc.seconds.toNat + t.rtc.minutes.toNat * 60 + t.rtc.hours.toNat * 3600
        + ((t.rtc.flags.toNat % 2 * 256 + t.rtc.dayLow.toNat : Nat) : Int) * 86400
        + (s.afterDraw.nextDraw - s.nextDraw) ∧ 265 / 86400 < 512 := by
  exact ⟨by decide, by decide, by decide, by decide, by decide, by decide, by decide, goes_of_leaves (by decide),
      by decide, by decide, by decide⟩

/-- V14, lines 1 and 2, with the seconds written back. -/
theorem witness_RegisterWriteLosesTheTimeSinceCapture :
    let s := clock 0 8 [100, 200]
    let t := stateOf (exec (.cWrLatch 0x6000 0x01) s)
    let u := stateOf (exec (.cWrSave 0xA000 40) t)
    s.runs (config .c 0x8000 0x8000 true true) ∧ (config .c 0x8000 0x8000 true true).variant = .c ∧
      s.latched = false ∧ s.rtcZero = some 0 ∧
      s.rtc.flags.getLsbD 6 = false ∧ (0 : Int) ≤ s.nextDraw ∧ s.nextDraw - 0 < 512 * 86400 ∧ s.ramEnabled = true ∧
      8 ≤ s.ramBank.toNat ∧ s.ramBank.toNat ≤ 12 ∧ exec (.cWrLatch 0x6000 0x01) s = .next t ∧
      t.rtc.toList[s.ramBank.toNat - 8]? = some 40 ∧ exec (.cWrSave 0xA000 40) t = .next u ∧
      s.MonotoneTime ∧ 2 ≤ s.timeAnswers.length ∧ u.rtcZero = some 100 := by
  exact ⟨by decide, by decide, by decide, by decide, by decide, by decide, by decide, by decide, by decide,
      by decide, goes_of_leaves (by decide),
    by decide, goes_of_leaves (by decide), by decide, by decide, by decide⟩

theorem witness_LatchPseudoOperationCaptures :
    let s := { clock 0 8 [100] with latched := true, pending := [.word 0x2600000#26, .word 0x2600001#26] }
    s.runs (config .c 0x8000 0x8000 true true) ∧ (config .c 0x8000 0x8000 true true).variant = .c ∧
      s.pending = pseudoLatch.map Command.word ++ [] := by
  decide

theorem witness_IllegalFormsFault :
    (device .b 0x8000 0 false false none).runs (config .b 0x8000 0 false false) ∧ 0x8000 ≤ (0x8000 : Addr).toNat ∧
      0x8000 ≤ (0xFFFF : Addr).toNat := by
  decide

theorem witness_FaultsArePrecise :
    let s := { device .c 0x8000 0x8000 true false none with
      ramEnabled := true, ramBank := 5, pending := [.word 0x1A00000#26] }
    let t := stateOf (step s)
    s.status = .running ∧ s.pending = .word 0x1A00000#26 :: [] ∧ step s = .next t ∧
      t.status = .faulted (.rtcRegisterUnmapped 5) := by
  exact ⟨by decide, by decide, goes_of_leaves (by decide), by decide⟩

theorem witness_FaultedAcceptsOnlyFlush :
    let s : State := { device .c 0x8000 0 false false none with
      status := .faulted (.rtcRegisterUnmapped 5), faultRecord := some (.rtcRegisterUnmapped 5) }
    s.config = some (config .c 0x8000 0 false false) ∧ s.status = .faulted (.rtcRegisterUnmapped 5) ∧
      encode (.cRdRom0 0) ≠ none ∧
      s.faultRecord = some (.rtcRegisterUnmapped 5) := by
  decide

theorem witness_ReadsAndIllegalFormsFrame :
    goes (exec (.aRdRom 0) (device .a 0x8000 0 false false none)) ∧
      goes (exec (.aRdSave 0) (device .a 0x8000 0 false false none)) ∧
      goes (exec (.aWrCtrl 0 0) (device .a 0x8000 0 false false none)) ∧
      goes (exec (.aWrSave 0 0) (device .a 0x8000 0 false false none)) ∧
      goes (exec (.bRdRom0 0) (device .b 0x8000 0x2000 false false none)) ∧
      goes (exec (.bRdRomX 0x4000) (device .b 0x8000 0x2000 false false none)) ∧
      goes (exec (.bRdSave 0) (device .b 0x8000 0x2000 false false none)) ∧
      goes (exec (.cRdRom0 0) (device .c 0x8000 0x2000 false false none)) ∧
      goes (exec (.cRdRomX 0x4000) (device .c 0x8000 0x2000 false false none)) ∧
      goes (exec (.cRdSave 0) (device .c 0x8000 0x2000 false false none)) ∧
      goes (exec (.xRdProgOow 0x8000) (device .c 0x8000 0x2000 false false none)) ∧
      goes (exec (.xWrCtrlUnmapped 0x8000 0) (device .c 0x8000 0x2000 false false none)) := by
  exact ⟨goes_of_leaves (by decide),
    goes_of_leaves (by decide),
    goes_of_leaves (by decide),
    goes_of_leaves (by decide),
    goes_of_leaves (by decide),
    goes_of_leaves (by decide),
    goes_of_leaves (by decide),
    goes_of_leaves (by decide),
    goes_of_leaves (by decide),
    goes_of_leaves (by decide),
    goes_of_leaves (by decide),
    goes_of_leaves (by decide)⟩

theorem witness_ControlWritesFrame :
    goes (exec (.bWrRamEn 0 0x0A) (device .b 0x8000 0x2000 false false none)) ∧
      goes (exec (.cWrRamEn 0 0x0A) (device .c 0x8000 0x2000 false false none)) ∧
      goes (exec (.bWrRomLo 0x2000 5) (device .b 0x8000 0x2000 false false none)) ∧
      goes (exec (.cWrRomB 0x2000 5) (device .c 0x8000 0x2000 false false none)) ∧
      goes (exec (.bWrBankHi 0x4000 1) (device .b 0x8000 0x2000 false false none)) ∧
      goes (exec (.bWrMode 0x6000 1) (device .b 0x8000 0x2000 false false none)) ∧
      goes (exec (.cWrRamB 0x4000 8) (device .c 0x8000 0x2000 false false none)) ∧
      goes (exec (.cWrLatch 0x6000 1) (device .c 0x8000 0x2000 false false none)) := by
  exact ⟨goes_of_leaves (by decide),
    goes_of_leaves (by decide),
    goes_of_leaves (by decide),
    goes_of_leaves (by decide),
    goes_of_leaves (by decide),
    goes_of_leaves (by decide),
    goes_of_leaves (by decide),
    goes_of_leaves (by decide)⟩

theorem witness_SaveWritesFrame_b :
    let s := { device .b 0x8000 0x2000 false false none with ramEnabled := true }
    let c := (config .b 0x8000 0x2000 false false)
    s.config = some c ∧ goes (exec (.bWrSave 0xBFFF 0x5A) s) ∧
      (0x1FFE : Nat) ≠ saveIndexB s 0xBFFF := by
  exact ⟨by decide, goes_of_leaves (by decide), by decide⟩

theorem witness_SaveWritesFrame_b_disabled :
    let s := { device .b 0x8000 0x2000 false false none with ramEnabled := false }
    let c := (config .b 0x8000 0x2000 false false)
    s.config = some c ∧ goes (exec (.bWrSave 0xBFFF 0x5A) s) ∧
      s.ramEnabled = false := by
  exact ⟨by decide, goes_of_leaves (by decide), by decide⟩

theorem witness_SaveWritesFrame_c :
    let s := { device .c 0x8000 0x8000 false false none with ramEnabled := true, ramBank := 3 }
    let c := (config .c 0x8000 0x8000 false false)
    s.config = some c ∧ goes (exec (.cWrSave 0xBFFF 0x5A) s) ∧
      saveTargetC c s.ramBank 0xBFFF = .sramAt 0x7FFF := by
  exact ⟨by decide, goes_of_leaves (by decide), by decide⟩

theorem witness_SaveWritesFrame_c_clock :
    let s := { device .c 0x8000 0x8000 false false none with ramEnabled := true, ramBank := 8 }
    let c := (config .c 0x8000 0x8000 false false)
    s.config = some c ∧ goes (exec (.cWrSave 0xA000 0x5A) s) ∧
      saveTargetC c s.ramBank 0xA000 = .rtcReg .seconds := by
  exact ⟨by decide, goes_of_leaves (by decide), by decide⟩

theorem witness_SaveWritesFrame_c_unmapped :
    let s := { device .c 0x8000 0x8000 false false none with ramEnabled := true, ramBank := 4 }
    let c := (config .c 0x8000 0x8000 false false)
    s.config = some c ∧ goes (exec (.cWrSave 0xA000 0x5A) s) ∧
      saveTargetC c s.ramBank 0xA000 = .unmapped 4 := by
  exact ⟨by decide, goes_of_leaves (by decide), by decide⟩

theorem witness_SaveWritesFrame_c_disabled :
    let s := { device .c 0x8000 0x8000 false false none with ramBank := 4 }
    let c := (config .c 0x8000 0x8000 false false)
    s.config = some c ∧ goes (exec (.cWrSave 0xA000 0x5A) s) ∧
      s.ramEnabled = false := by
  exact ⟨by decide, goes_of_leaves (by decide), by decide⟩

theorem witness_OnlyTheClockDrawsTime :
    goes (exec (.cRdRom0 0) (clock 0 8 [])) ∧
      goes (exec (.cWrLatch 0x6000 0x01) (clock 0 8 [1])) ∧
      goes (exec (.cWrSave 0 0) (clock 0 8 [1])) ∧ (0x00 : Byte) ≠ 0x01 := by
  exact ⟨goes_of_leaves (by decide), goes_of_leaves (by decide), goes_of_leaves (by decide), by decide⟩

theorem witness_OnlyTheClockDrawsTime_latch :
    let s := { clock 0 8 [1] with latched := true }
    let u := { clock 0 8 [1] with rtc := { RtcRegs.reset with flags := 0x40 } }
    goes (exec (.cWrLatch 0x6000 0x01) s) ∧ s.latched = true ∧ goes (exec (.cWrLatch 0x6000 0x01) u) ∧
      u.rtc.flags.getLsbD 6 = true := by
  exact ⟨goes_of_leaves (by decide), by decide, goes_of_leaves (by decide), by decide⟩

theorem witness_OnlyTheClockDrawsTime_disabled :
    let s := { clock 0 8 [1] with ramEnabled := false }
    goes (exec (.cWrSave 0xA000 0) s) ∧ s.ramEnabled = false := by
  exact ⟨goes_of_leaves (by decide), by decide⟩

theorem witness_OnlyTheClockDrawsTime_bank_3 :
    let s := clock 0 3 [1]
    goes (exec (.cWrSave 0xA000 0) s) ∧ s.ramBank.toNat < 8 := by
  exact ⟨goes_of_leaves (by decide), by decide⟩

theorem witness_OnlyTheClockDrawsTime_bank_7 :
    let s := clock 0 7 [1]
    goes (exec (.cWrSave 0xA000 0) s) ∧ s.ramBank.toNat < 8 := by
  exact ⟨goes_of_leaves (by decide), by decide⟩

theorem witness_OnlyTheClockDrawsTime_bank_13 :
    let s := clock 0 13 [1]
    goes (exec (.cWrSave 0xA000 0) s) ∧ 12 < s.ramBank.toNat := by
  exact ⟨goes_of_leaves (by decide), by decide⟩

theorem witness_OnlyTheClockDrawsTime_no_epoch :
    let s := { clock 0 8 [1] with rtcZero := none }
    goes (exec (.cWrSave 0xA000 0) s) ∧ s.rtcZero = none := by
  exact ⟨goes_of_leaves (by decide), by decide⟩

theorem witness_ConfigurationIsFixed :
    goes (step twoDevices) ∧ (∀ i s n rest, twoDevices.pending ≠ .load i s n :: rest) ∧
      (∀ n rest, twoDevices.pending ≠ .select n :: rest) ∧ deviceOf loadedB ∈ twoDevices.others ∧
      twoDevices.config = some (deviceOf twoDevices).config := by
  have hp : twoDevices.pending = [] := by decide
  exact ⟨goes_of_leaves (by decide), by simp [hp], by simp [hp], by decide, by decide⟩

theorem witness_ConfigurationIsFixed_moved :
    goes (step { twoDevices with pending := [.select 0] }) ∧
      goes (step { twoDevices with pending := [.load (image 0x149 0 0) .absent 0] }) := by
  exact ⟨goes_of_leaves (by decide), goes_of_leaves (by decide)⟩

theorem witness_ClockRegistersMoveOnlyOnCaptureOrWrite :
    let s := { clock 0 8 [100] with pending := [.word 0x2600001#26] }
    goes (step s) ∧ (stateOf (step s)).rtc ≠ s.rtc := by
  exact ⟨goes_of_leaves (by decide), by decide⟩

theorem witness_ClockRegistersMoveOnlyOnCaptureOrWrite_turn :
    let s := { twoDevices with pending := [.select 0], rtc := { RtcRegs.reset with seconds := 1 } }
    goes (step s) ∧ (stateOf (step s)).rtc ≠ s.rtc := by
  exact ⟨goes_of_leaves (by decide), by decide⟩

theorem witness_OnlyAWriteOrLoadClearsTheCarry :
    let s := { clock 0 0x0C [100] with pending := [.word 0x3A00000#26], rtc := { RtcRegs.reset with flags := 0x80 } }
    goes (step s) ∧ s.rtc.flags.getLsbD 7 = true ∧ (stateOf (step s)).rtc.flags.getLsbD 7 = false := by
  exact ⟨goes_of_leaves (by decide), by decide, by decide⟩

theorem witness_StatusMovesOneWay :
    goes (step State.reset) := by
  exact goes_of_leaves (by decide)

theorem witness_StepKeepsSramSound :
    let s := { twoDevices with pending := [.word 0x3A00055#26], ramEnabled := true }
    s.everyDevice State.sramSound ∧ goes (step s) := by
  exact ⟨by decide, goes_of_leaves (by decide)⟩

theorem witness_StepKeepsBankSelectorsLegal :
    let s := { twoDevices with pending := [.select 0] }
    s.everyDevice State.banksSound ∧ goes (step s) := by
  exact ⟨by decide, goes_of_leaves (by decide)⟩

theorem witness_StepKeepsTheInvariant :
    twoDevices.Inv ∧ goes (step twoDevices) := by
  exact ⟨twoDevices_inv, goes_of_leaves (by decide)⟩

end Sys2Proof.Tests
end

/-! PROOFS. The decode is total and unambiguous (30 R67, R76). The decoder and the opcode table look at a word through `op`
and `addr[15:13]` alone, so which row matches is settled at one corner word for each of the 32 values of the two. -/

namespace Sys2Proof

open Sys2Proof.Machine

/-! ### What a word decodes to -/

/-- The addresses of the windows `lo` to `hi` are a range of the opcode table. -/
theorem inRange_of_ctrlWindow {a : Addr} (lo hi : Nat) (h : lo ≤ ctrlWindow a) (h' : ctrlWindow a ≤ hi) :
    Addr.inRange (lo * 0x2000) (hi * 0x2000 + 0x1FFF) a = true := by
  rw [ctrlWindow_eq] at h h'
  exact inRange_of_bounds (by omega) (by omega)

theorem decode_inVariant (v : Variant) (w : TWord) : (decode v w).inVariant v = true := by
  cases v <;> simp only [decode, decodeA, decodeB, decodeC] <;> cases wordOp w <;> simp only <;> (repeat' split) <;> rfl

theorem decodeA_wellFormed (w : TWord) : (decodeA w).wellFormed = true := by
  have hk := ctrlWindow_lt (wordAddr w)
  unfold decodeA
  split
  case h_1 | h_3 =>
    split
    · exact inRange_of_ctrlWindow 0 3 (by omega) (by omega)
    · exact inRange_of_ctrlWindow 4 7 (by omega) (by omega)
  case h_2 | h_4 => rfl

theorem decodeB_wellFormed (w : TWord) : (decodeB w).wellFormed = true := by
  have hk := ctrlWindow_lt (wordAddr w)
  unfold decodeB
  split
  case h_1 =>
    split
    · exact inRange_of_ctrlWindow 0 1 (by omega) (by omega)
    · split
      · exact inRange_of_ctrlWindow 2 3 (by omega) (by omega)
      · exact inRange_of_ctrlWindow 4 7 (by omega) (by omega)
  case h_3 =>
    split
    · exact inRange_of_ctrlWindow 0 0 (by omega) (by omega)
    · exact inRange_of_ctrlWindow 1 1 (by omega) (by omega)
    · exact inRange_of_ctrlWindow 2 2 (by omega) (by omega)
    · exact inRange_of_ctrlWindow 3 3 (by omega) (by omega)
    · next hk0 hk1 hk2 hk3 =>
      simp only [imp_false] at hk0 hk1 hk2 hk3
      exact inRange_of_ctrlWindow 4 7 (by omega) (by omega)
  case h_2 | h_4 => rfl

/-- Branch by branch, the forms of Variant C have the ranges of those of Variant B. -/
theorem decodeC_wellFormed (w : TWord) : (decodeC w).wellFormed = (decodeB w).wellFormed := by
  unfold decodeC decodeB
  cases wordOp w <;> simp only <;> (repeat' split) <;> rfl

theorem decode_wellFormed (v : Variant) (w : TWord) : (decode v w).wellFormed = true := by
  cases v
  case a => exact decodeA_wellFormed w
  case b => exact decodeB_wellFormed w
  case c => exact (decodeC_wellFormed w).trans (decodeB_wellFormed w)

/-- Which form a word decodes to depends on `op` and `addr[15:13]` alone. -/
theorem decode_tableRow_congr {w w' : TWord} (v : Variant) (hop : wordOp w' = wordOp w)
    (hk : ctrlWindow (wordAddr w') = ctrlWindow (wordAddr w)) : (decode v w').tableRow = (decode v w).tableRow := by
  cases v <;> simp only [decode, decodeA, decodeB, decodeC, hop, hk] <;> cases wordOp w <;> simp only <;>
    (repeat' split) <;> rfl

/-! ### Which rows match a word -/

theorem tablePattern_eq_none {n : Nat} (h : 22 ≤ n) : tablePattern n = none := by
  obtain ⟨k, rfl⟩ := Nat.exists_eq_add_of_le' h
  rfl

theorem lt_of_rowMatches {v : Variant} {w : TWord} {n : Nat} (h : rowMatches v w n = true) : n < 22 := by
  by_contra hn
  simp [rowMatches, tablePattern_eq_none (Nat.le_of_not_lt hn)] at h

/-- No row of the opcode table looks below `addr[15:13]`. -/
theorem tablePattern_low {n : Nat} {variants : List Variant} {pattern mask : TWord}
    (h : tablePattern n = some (variants, pattern, mask)) : mask.toNat % 2 ^ 21 = 0 ∧ pattern.toNat % 2 ^ 21 = 0 := by
  unfold tablePattern at h
  split at h <;> cases h <;> decide

theorem extract_topBits (w : TWord) : w.extractLsb' 21 5 = topBits (wordOp w) (ctrlWindow (wordAddr w)) := by
  rw [← extract_busWord _ _ (wordData w), busWord_fields]

/-- Which rows match a word depends on `op` and `addr[15:13]` alone. -/
theorem rowMatches_congr {w w' : TWord} (v : Variant) (n : Nat) (hop : wordOp w' = wordOp w)
    (hk : ctrlWindow (wordAddr w') = ctrlWindow (wordAddr w)) : rowMatches v w' n = rowMatches v w n := by
  have htop : w'.extractLsb' 21 5 = w.extractLsb' 21 5 := by rw [extract_topBits, extract_topBits, hop, hk]
  unfold rowMatches
  split
  case h_1 variants pattern mask h =>
    obtain ⟨hm, hp⟩ := tablePattern_low h
    have hiff : w' &&& mask = pattern ↔ w &&& mask = pattern := by
      rw [masked_eq_iff w' hm hp, masked_eq_iff w hm hp, htop]
    rw [Bool.eq_iff_iff]
    simp [hiff]
  case h_2 => rfl

/-! ### The corner words -/

/-- The first word of an operation's window `k`: the window's first address, and data 0. -/
def cornerWord (op : BusOp) (k : Nat) : TWord := busWord op (BitVec.ofNat 16 (k * 0x2000)) 0

@[simp] theorem wordOp_cornerWord (op : BusOp) (k : Nat) : wordOp (cornerWord op k) = op :=
  wordOp_busWord ..

theorem ctrlWindow_cornerWord (op : BusOp) {k : Nat} (h : k < 8) : ctrlWindow (wordAddr (cornerWord op k)) = k := by
  rw [cornerWord, wordAddr_busWord, ctrlWindow_eq, BitVec.toNat_ofNat]
  omega

/-- At a corner word, the row of the form it decodes to is the one row that matches. -/
theorem rowMatches_cornerWord (v : Variant) (op : BusOp) (k : Fin 8) (n : Fin 22) :
    rowMatches v (cornerWord op k) n = true ↔ n = (decode v (cornerWord op k)).tableRow := by
  revert k n
  cases v <;> cases op <;> decide

theorem decode_cornerWord_tableRow_lt (v : Variant) (op : BusOp) (k : Fin 8) :
    (decode v (cornerWord op k)).tableRow < 22 := by
  revert k
  cases v <;> cases op <;> decide

/-- The one row that matches a word is the row of the form it decodes to. -/
theorem rowMatches_iff (v : Variant) (w : TWord) (n : Nat) :
    rowMatches v w n = true ↔ n = (decode v w).tableRow := by
  have hlt := ctrlWindow_lt (wordAddr w)
  have hop : wordOp (cornerWord (wordOp w) (ctrlWindow (wordAddr w))) = wordOp w := wordOp_cornerWord ..
  have hk := ctrlWindow_cornerWord (wordOp w) hlt
  rw [← rowMatches_congr v n hop hk, ← decode_tableRow_congr v hop hk]
  by_cases hn : n < 22
  · exact rowMatches_cornerWord v (wordOp w) ⟨_, hlt⟩ ⟨n, hn⟩
  · have hrow := decode_cornerWord_tableRow_lt v (wordOp w) ⟨_, hlt⟩
    exact iff_of_false (fun h => hn (lt_of_rowMatches h)) (fun h => hn (h ▸ hrow))

/-- Settles O3: the decoder and the table agree at the 32 corner words, and neither looks further into a word. -/
theorem everyWordMatchesExactlyItsRow : Obligations.EveryWordMatchesExactlyItsRow := by
  intro v w
  refine ⟨decode_wellFormed v w, decode_inVariant v w, rowMatches_iff v w, fun w' hop hwindow => ?_⟩
  exact decode_tableRow_congr v hop (congrArg BitVec.toNat hwindow)

end Sys2Proof

/-! PROOFS. The save window of Variant A holds nothing (40 R78, R80). The window is selected by `op` alone (30 R67), and the
device answers without looking at the address or at its state. -/

namespace Sys2Proof

open Sys2Proof.Machine

/-! ### The decoder's save forms in Variant A -/

theorem decode_a_busWord_rdSave (a : Addr) (d : Byte) : decode .a (busWord .rdSave a d) = .aRdSave a := by
  simp only [decode, decodeA, wordOp_busWord, wordAddr_busWord]

theorem decode_a_busWord_wrSave (a : Addr) (d : Byte) : decode .a (busWord .wrSave a d) = .aWrSave a d := by
  simp only [decode, decodeA, wordOp_busWord, wordAddr_busWord, wordData_busWord]

/-! ### What the two forms do in a Running device -/

theorem exec_aRdSave_runs {s : State} {c : Configuration} (h : s.runs c) (hv : c.variant = .a) (a : Addr) :
    exec (.aRdSave a) s = .next { s with response := .byte 0x00 } :=
  (onVariant_runs h hv _).trans (returnByte_eq 0x00 s)

theorem exec_aWrSave_runs {s : State} {c : Configuration} (h : s.runs c) (hv : c.variant = .a) (a : Addr) (d : Byte) :
    exec (.aWrSave a d) s = .next { s with response := .done } :=
  (onVariant_runs h hv _).trans (finish_eq s)

/-- Settles O22: the word's operation alone selects the form, and a Running device of Variant A passes its gate. -/
theorem variantASaveWindowIsEmpty : Obligations.VariantASaveWindowIsEmpty := by
  intro s c addr value hruns hv
  exact ⟨decode_a_busWord_rdSave addr value, exec_aRdSave_runs hruns hv addr,
    decode_a_busWord_wrSave addr value, exec_aWrSave_runs hruns hv addr value⟩

end Sys2Proof

/-! PROOFS. The four control writes of Variant B (41 R86 to R89). `addr[15:13]` selects the form (30 R67), and a Running device
writes one register with the part of the value that the rule names. -/

namespace Sys2Proof

open Sys2Proof.Machine

/-! ### The decoder's control forms in Variant B -/

theorem ctrlWindow_of_bounds {a : Addr} {k : Nat} (h : k * 0x2000 ≤ a.toNat) (h' : a.toNat < (k + 1) * 0x2000) :
    ctrlWindow a = k := by
  rw [ctrlWindow_eq]
  omega

theorem decode_b_busWord_ramEn {a : Addr} (h : ctrlWindow a = 0) (d : Byte) :
    decode .b (busWord .wrCtrl a d) = .bWrRamEn a d := by
  simp only [decode, decodeB, wordOp_busWord, wordAddr_busWord, wordData_busWord, h]

theorem decode_b_busWord_romLo {a : Addr} (h : ctrlWindow a = 1) (d : Byte) :
    decode .b (busWord .wrCtrl a d) = .bWrRomLo a d := by
  simp only [decode, decodeB, wordOp_busWord, wordAddr_busWord, wordData_busWord, h]

theorem decode_b_busWord_bankHi {a : Addr} (h : ctrlWindow a = 2) (d : Byte) :
    decode .b (busWord .wrCtrl a d) = .bWrBankHi a d := by
  simp only [decode, decodeB, wordOp_busWord, wordAddr_busWord, wordData_busWord, h]

theorem decode_b_busWord_mode {a : Addr} (h : ctrlWindow a = 3) (d : Byte) :
    decode .b (busWord .wrCtrl a d) = .bWrMode a d := by
  simp only [decode, decodeB, wordOp_busWord, wordAddr_busWord, wordData_busWord, h]

/-! ### The values of the one-bit registers -/

theorem ramEnableOf_eq (value : Byte) : ramEnableOf value = decide (value = 0x0A) := rfl

/-- Bit 0 is the parity. -/
theorem ramModeOf_eq (value : Byte) : ramModeOf value = decide (value.toNat % 2 = 1) :=
  Nat.testBit_zero value.toNat

/-! ### What the four forms do in a Running device -/

section
variable {s : State} {c : Configuration}

theorem exec_bWrRamEn_runs (h : s.runs c) (hv : c.variant = .b) (a : Addr) (d : Byte) :
    exec (.bWrRamEn a d) s = .next { s with ramEnabled := ramEnableOf d, response := .done } :=
  (onVariant_runs h hv _).trans (finish_eq _)

theorem exec_bWrRomLo_runs (h : s.runs c) (hv : c.variant = .b) (a : Addr) (d : Byte) :
    exec (.bWrRomLo a d) s = .next { s with romBank := romBankLow s.romBank d, response := .done } :=
  (onVariant_runs h hv _).trans (finish_eq _)

/-- In mode 0 the value goes to the high bits of `rom_bank`. -/
theorem exec_bWrBankHi_rom (h : s.runs c) (hv : c.variant = .b) (hm : s.ramMode = false) (a : Addr) (d : Byte) :
    exec (.bWrBankHi a d) s = .next { s with romBank := romBankHigh s.romBank d, response := .done } :=
  (onVariant_runs h hv _).trans (if_neg (by simp [hm]))

/-- In mode 1 the value goes to `ram_bank`. -/
theorem exec_bWrBankHi_ram (h : s.runs c) (hv : c.variant = .b) (hm : s.ramMode = true) (a : Addr) (d : Byte) :
    exec (.bWrBankHi a d) s = .next { s with ramBank := ramBankB d, response := .done } :=
  (onVariant_runs h hv _).trans (if_pos hm)

theorem exec_bWrMode_runs (h : s.runs c) (hv : c.variant = .b) (a : Addr) (d : Byte) :
    exec (.bWrMode a d) s = .next { s with ramMode := ramModeOf d, response := .done } :=
  (onVariant_runs h hv _).trans (finish_eq _)

end

/-- Settles O28: the high bits and the coerced low bits do not overlap, so the bank is their sum. -/
theorem romLowBitsAreCoerced : Obligations.RomLowBitsAreCoerced := by
  intro s c addr value hruns hv hlo hhi
  have hwindow : ctrlWindow addr = 1 := ctrlWindow_of_bounds hlo hhi
  exact ⟨decode_b_busWord_romLo hwindow value,
    romBankLow s.romBank value, exec_bWrRomLo_runs hruns hv addr value, romBankLow_toNat s.romBank value⟩

/-- Settles O29: the two modes are the two branches of the form, and each writes one register. -/
theorem bankHighIsRoutedByTheMode : Obligations.BankHighIsRoutedByTheMode := by
  intro s c addr value hruns hv hlo hhi
  have hwindow : ctrlWindow addr = 2 := ctrlWindow_of_bounds hlo hhi
  refine ⟨decode_b_busWord_bankHi hwindow value, fun hmode => ?rom, fun hmode => ?ram⟩
  case rom =>
    exact ⟨romBankHigh s.romBank value, exec_bWrBankHi_rom hruns hv hmode addr value, romBankHigh_toNat s.romBank value⟩
  case ram =>
    exact ⟨ramBankB value, exec_bWrBankHi_ram hruns hv hmode addr value, ramBankB_toNat value⟩

/-- Settles O27: the written bit compares the whole byte with 0x0A. -/
theorem ramEnableComparesTheWholeByte : Obligations.RamEnableComparesTheWholeByte := by
  intro s c addr value hruns hv hhi
  have hwindow : ctrlWindow addr = 0 := ctrlWindow_of_bounds (Nat.zero_le _) hhi
  rw [exec_bWrRamEn_runs hruns hv, ramEnableOf_eq]
  refine ⟨decode_b_busWord_ramEn hwindow value, fun heq => ?enables, fun hne => ?disables⟩
  case enables => rw [decide_eq_true heq]
  case disables => rw [decide_eq_false hne]

/-- Settles O30: the written bit is bit 0 of the value, which is its parity. -/
theorem modeIsBitZero : Obligations.ModeIsBitZero := by
  intro s c addr value hruns hv hlo hhi
  have hwindow : ctrlWindow addr = 3 := ctrlWindow_of_bounds hlo hhi
  rw [exec_bWrMode_runs hruns hv, ramModeOf_eq]
  exact ⟨decode_b_busWord_mode hwindow value, rfl⟩

end Sys2Proof

/-! PROOFS. The two bank writes of Variant C (42 R98, R99). Each writes one register in one step, and `ram_mode` plays no
part. -/

namespace Sys2Proof

open Sys2Proof.Machine

/-! ### The decoder's bank forms in Variant C -/

theorem decode_c_busWord_romBank {a : Addr} (h : ctrlWindow a = 1) (d : Byte) :
    decode .c (busWord .wrCtrl a d) = .cWrRomB a d := by
  simp only [decode, decodeC, wordOp_busWord, wordAddr_busWord, wordData_busWord, h]

theorem decode_c_busWord_ramBank {a : Addr} (h : ctrlWindow a = 2) (d : Byte) :
    decode .c (busWord .wrCtrl a d) = .cWrRamB a d := by
  simp only [decode, decodeC, wordOp_busWord, wordAddr_busWord, wordData_busWord, h]

/-! ### What the two forms do in a Running device -/

theorem exec_cWrRomB_runs {s : State} {c : Configuration} (h : s.runs c) (hv : c.variant = .c) (a : Addr) (d : Byte) :
    exec (.cWrRomB a d) s = .next { s with romBank := romBankC d, response := .done } :=
  (onVariant_runs h hv _).trans (finish_eq _)

theorem exec_cWrRamB_runs {s : State} {c : Configuration} (h : s.runs c) (hv : c.variant = .c) (a : Addr) (d : Byte) :
    exec (.cWrRamB a d) s = .next { s with ramBank := d, response := .done } :=
  (onVariant_runs h hv _).trans (finish_eq _)

/-- Settles O35: the bank written is the seven low bits of the value, coerced to 1 where they are 0. -/
theorem variantCRomBank : Obligations.VariantCRomBank := by
  intro s c addr value hruns hv hlo hhi
  have hwindow : ctrlWindow addr = 1 := ctrlWindow_of_bounds hlo hhi
  exact ⟨decode_c_busWord_romBank hwindow value,
    romBankC value, exec_cWrRomB_runs hruns hv addr value, romBankC_toNat value⟩

/-- Settles O36: the value is written as it is, with no mask and no range check. -/
theorem variantCRamBank : Obligations.VariantCRamBank := by
  intro s c addr value hruns hv hlo hhi
  have hwindow : ctrlWindow addr = 2 := ctrlWindow_of_bounds hlo hhi
  exact ⟨decode_c_busWord_ramBank hwindow value, exec_cWrRamB_runs hruns hv addr value⟩

end Sys2Proof

/-! PROOFS. The latch of Variant C (43 R113), and the captures that leave the clock as it is (43 R108, R109). The form has
one branch per case of the rule, and a capture is the register derivation followed by setting `latched`. -/

namespace Sys2Proof

open Sys2Proof.Machine

theorem decode_c_busWord_latch {a : Addr} (h : ctrlWindow a = 3) (d : Byte) :
    decode .c (busWord .wrCtrl a d) = .cWrLatch a d := by
  simp only [decode, decodeC, wordOp_busWord, wordAddr_busWord, wordData_busWord, h]

/-! ### What the latch does in a Running device -/

section
variable {s : State} {c : Configuration}

theorem exec_cWrLatch_clear (h : s.runs c) (hv : c.variant = .c) (a : Addr) :
    exec (.cWrLatch a 0x00) s = .next { s with latched := false, response := .done } :=
  (onVariant_runs h hv _).trans (if_pos rfl)

/-- A 1 that finds `latched` clear captures. -/
theorem exec_cWrLatch_capture (h : s.runs c) (hv : c.variant = .c) (hl : s.latched = false) (a : Addr) :
    exec (.cWrLatch a 0x01) s = .next { calcRtcReg s with latched := true, response := .done } :=
  (onVariant_runs h hv _).trans ((if_neg (by decide)).trans (if_pos ⟨rfl, hl⟩))

/-- A value that neither clears nor captures leaves the clock and `latched` as they are. -/
theorem exec_cWrLatch_noop (h : s.runs c) (hv : c.variant = .c) {d : Byte} (h0 : d ≠ 0x00)
    (h1 : d = 0x01 → s.latched = true) (a : Addr) :
    exec (.cWrLatch a d) s = .next { s with response := .done } := by
  have hedge : ¬(d = 0x01 ∧ s.latched = false) := fun ⟨hd, hl⟩ => by simp [h1 hd] at hl
  exact (onVariant_runs h hv _).trans ((if_neg h0).trans (if_neg hedge))

end

/-- While halted, or with no epoch, the derivation is the identity (43 R108, R109). -/
theorem calcRtcReg_unchanged {s : State} (h : haltFlag s.rtc.flags = true ∨ s.rtcZero = none) : calcRtcReg s = s :=
  h.elim calcRtcReg_halted calcRtcReg_unset

/-- Settles O40: the three clauses are the three branches of the form. -/
theorem latchIsEdgeTriggered : Obligations.LatchIsEdgeTriggered := by
  intro s c addr value hruns hv hlo hhi
  have hwindow : ctrlWindow addr = 3 := ctrlWindow_of_bounds hlo hhi
  refine ⟨decode_c_busWord_latch hwindow value, ?clears, ?captures, ?ignores⟩
  case clears =>
    rintro rfl
    exact exec_cWrLatch_clear hruns hv addr
  case captures =>
    rintro rfl hclear
    exact exec_cWrLatch_capture hruns hv hclear addr
  case ignores =>
    intro hne hlatched
    exact exec_cWrLatch_noop hruns hv hne hlatched addr

/-- Settles O41: a capture is the derivation and then `latched`, and here the derivation is the identity. -/
theorem haltedOrUnclockedCaptureKeepsTheRegisters : Obligations.HaltedOrUnclockedCaptureKeepsTheRegisters := by
  intro s hstill
  have hsame : calcRtcReg s = s := calcRtcReg_unchanged hstill
  refine ⟨hsame, fun c addr hruns hv hclear => ?_⟩
  rw [exec_cWrLatch_capture hruns hv hclear, hsame]

end Sys2Proof

/-! PROOFS. LOAD of a type byte that no row of TYPE_TABLE names (44 R129), and the save image of Variant B (44 R137). A fault
of the header is all that LOAD reports, and FLUSH hands over exactly the image that the save-image format gives. -/

namespace Sys2Proof

open Sys2Proof.Machine

/-! ### LOAD: from the header's fault to the answer -/

/-- TYPE_TABLE has nine rows (44 R124). -/
theorem mem_types_of_typeTable {type : Byte} {kind : CartridgeKind} (h : typeTable type = some kind) :
    type ∈ [0x00#8, 0x01#8, 0x02#8, 0x03#8, 0x0F#8, 0x10#8, 0x11#8, 0x12#8, 0x13#8] := by
  unfold typeTable at h
  split at h
  case h_10 => cases h -- the default row gives no kind
  all_goals simp [← BitVec.toNat_inj, *]

/-- A type that TYPE_TABLE does not name is the header's second check (44 R123, R129). -/
theorem readHeader_unsupported {rom : ByteString} (hlen : 0x149 ≤ rom.len)
    (htype : typeTable (Memory.read rom.cells 0x147) = none) :
    readHeader rom = .error (.unsupportedCartridgeType (Memory.read rom.cells 0x147)) := by
  rw [readHeader, if_neg (Nat.not_lt.2 hlen), htype]

theorem loadDevice_of_readHeader_error {image : ByteString} {f : Fault} (hwf : image.wf = true)
    (h : readHeader image = .error f) (save : SaveFile) (init : Seconds) :
    loadDevice image save init = .error f := by
  rw [loadDevice, normalBytes_wf hwf, h]

theorem exec_load_of_loadDevice_error {image : ByteString} {save : SaveFile} {init : Seconds} {f : Fault}
    (h : loadDevice image save init = .error f) (s : State) :
    exec (.load image save init) s = .next { s with response := .fault f } := by
  change execLoad image save init s = _
  rw [execLoad, h]
  rfl

/-- Settles O12: a byte outside the nine rows has no kind, so the header faults and LOAD reports it. -/
theorem loadNamesAnUnsupportedType : Obligations.LoadNamesAnUnsupportedType := by
  intro image save init s hwf hlen hother
  have hnone : typeTable (Memory.read image.cells 0x147) = none :=
    Option.eq_none_iff_forall_ne_some.2 fun _ hkind => hother (mem_types_of_typeTable hkind)
  have hheader := readHeader_unsupported hlen hnone
  exact exec_load_of_loadDevice_error (loadDevice_of_readHeader_error hwf hheader save init) s

/-! ### FLUSH: from the save image to the answer -/

section
variable {s : State} {c : Configuration}

theorem saveImageOf_b (hv : c.variant = .b) : saveImageOf c s = .ok { len := c.sramSize, cells := s.sram } := by
  rw [saveImageOf, hv]

/-- With a battery and a host that stores the file, the device ends with its save image. -/
theorem teardown_stored {image : ByteString} (hb : c.battery = true) (h : saveImageOf c s = .ok image) :
    teardown c .stored s = { s with status := .flushed, saveImage := some image, response := .done } := by
  rw [teardown, if_pos hb, h]
  rfl

end

/-- Settles O15: the image of Variant B is SRAM itself, and FLUSH hands it over. -/
theorem flushWritesSramVerbatim : Obligations.FlushWritesSramVerbatim := by
  intro s c hconfig hstatus hbattery hv
  have hflush := exec_flush .stored hconfig hstatus
  rw [teardown_stored hbattery (saveImageOf_b hv)] at hflush
  exact ⟨_, _, hflush, rfl, rfl, rfl, rfl, fun _ => rfl⟩

end Sys2Proof

/-! PROOFS. The two directions of the encoding (30, sections 2 and 3). A form's range fixes its window, and `op` and the
window are all that the decoder looks at; a word is its three fields, of which a read has no use for the last. -/

namespace Sys2Proof

open Sys2Proof.Machine

/-! ### From a form's range to its window -/

/-- An address in the range of the windows `lo` to `hi` lies in one of them. -/
theorem ctrlWindow_of_inRange {a : Addr} (lo hi : Nat)
    (h : Addr.inRange (lo * 0x2000) (hi * 0x2000 + 0x1FFF) a = true) : lo ≤ ctrlWindow a ∧ ctrlWindow a < hi + 1 := by
  obtain ⟨hlo, hhi⟩ := inRange_bounds h
  rw [ctrlWindow_eq]
  omega

theorem ctrlWindow_eq_of_inRange {a : Addr} (k : Nat)
    (h : Addr.inRange (k * 0x2000) (k * 0x2000 + 0x1FFF) a = true) : ctrlWindow a = k := by
  obtain ⟨hlo, hhi⟩ := ctrlWindow_of_inRange k k h
  exact Nat.eq_of_le_of_lt_succ hlo hhi

/-! ### The decoder's other forms -/

theorem decode_a_busWord_rdProg {a : Addr} (h : ctrlWindow a < 4) (d : Byte) :
    decode .a (busWord .rdProg a d) = .aRdRom a := by
  simp only [decode, decodeA, wordOp_busWord, wordAddr_busWord, if_pos h]

theorem decode_a_busWord_wrCtrl {a : Addr} (h : ctrlWindow a < 4) (d : Byte) :
    decode .a (busWord .wrCtrl a d) = .aWrCtrl a d := by
  simp only [decode, decodeA, wordOp_busWord, wordAddr_busWord, wordData_busWord, if_pos h]

theorem decode_b_busWord_rom0 {a : Addr} (h : ctrlWindow a < 2) (d : Byte) :
    decode .b (busWord .rdProg a d) = .bRdRom0 a := by
  simp only [decode, decodeB, wordOp_busWord, wordAddr_busWord, if_pos h]

theorem decode_b_busWord_romX {a : Addr} (h : 2 ≤ ctrlWindow a) (h' : ctrlWindow a < 4) (d : Byte) :
    decode .b (busWord .rdProg a d) = .bRdRomX a := by
  simp only [decode, decodeB, wordOp_busWord, wordAddr_busWord, if_neg (Nat.not_lt.2 h), if_pos h']

theorem decode_b_busWord_rdSave (a : Addr) (d : Byte) : decode .b (busWord .rdSave a d) = .bRdSave a := by
  simp only [decode, decodeB, wordOp_busWord, wordAddr_busWord]

theorem decode_b_busWord_wrSave (a : Addr) (d : Byte) : decode .b (busWord .wrSave a d) = .bWrSave a d := by
  simp only [decode, decodeB, wordOp_busWord, wordAddr_busWord, wordData_busWord]

theorem decode_c_busWord_rom0 {a : Addr} (h : ctrlWindow a < 2) (d : Byte) :
    decode .c (busWord .rdProg a d) = .cRdRom0 a := by
  simp only [decode, decodeC, wordOp_busWord, wordAddr_busWord, if_pos h]

theorem decode_c_busWord_romX {a : Addr} (h : 2 ≤ ctrlWindow a) (h' : ctrlWindow a < 4) (d : Byte) :
    decode .c (busWord .rdProg a d) = .cRdRomX a := by
  simp only [decode, decodeC, wordOp_busWord, wordAddr_busWord, if_neg (Nat.not_lt.2 h), if_pos h']

theorem decode_c_busWord_rdSave (a : Addr) (d : Byte) : decode .c (busWord .rdSave a d) = .cRdSave a := by
  simp only [decode, decodeC, wordOp_busWord, wordAddr_busWord]

theorem decode_c_busWord_ramEn {a : Addr} (h : ctrlWindow a = 0) (d : Byte) :
    decode .c (busWord .wrCtrl a d) = .cWrRamEn a d := by
  simp only [decode, decodeC, wordOp_busWord, wordAddr_busWord, wordData_busWord, h]

theorem decode_c_busWord_wrSave (a : Addr) (d : Byte) : decode .c (busWord .wrSave a d) = .cWrSave a d := by
  simp only [decode, decodeC, wordOp_busWord, wordAddr_busWord, wordData_busWord]

/-- In every variant a program read past the windows is illegal (60 R149). -/
theorem decode_busWord_rdProgOow {a : Addr} (h : 4 ≤ ctrlWindow a) (v : Variant) (d : Byte) :
    decode v (busWord .rdProg a d) = .xRdProgOow a := by
  have h4 : ¬ctrlWindow a < 4 := Nat.not_lt.2 h
  have h2 : ¬ctrlWindow a < 2 := fun h2 => h4 (Nat.lt_trans h2 (by decide))
  cases v <;> simp only [decode, decodeA, decodeB, decodeC, wordOp_busWord, wordAddr_busWord, if_neg h4, if_neg h2]

/-- In every variant a control write past the windows is illegal (60 R149). -/
theorem decode_busWord_ctrlUnmapped {a : Addr} (h : 4 ≤ ctrlWindow a) (v : Variant) (d : Byte) :
    decode v (busWord .wrCtrl a d) = .xWrCtrlUnmapped a d := by
  obtain ⟨k, hk⟩ := Nat.exists_eq_add_of_le' h
  cases v <;> simp only [decode, decodeA, decodeB, decodeC, wordOp_busWord, wordAddr_busWord, wordData_busWord, hk]
  case a => exact if_neg (by omega)

/-- Settles O1: form by form, the range gives the window, and `op` and the window give the form back. -/
theorem decodeOfEncodeIsTheForm : Obligations.DecodeOfEncodeIsTheForm := by
  intro v i w hwf hv hw
  cases i with
  | aRdRom a =>
    cases hw
    obtain rfl := eq_of_beq hv
    exact decode_a_busWord_rdProg (ctrlWindow_of_inRange 0 3 hwf).2 0
  | aRdSave a =>
    cases hw
    obtain rfl := eq_of_beq hv
    exact decode_a_busWord_rdSave a 0
  | aWrCtrl a d =>
    cases hw
    obtain rfl := eq_of_beq hv
    exact decode_a_busWord_wrCtrl (ctrlWindow_of_inRange 0 3 hwf).2 d
  | aWrSave a d =>
    cases hw
    obtain rfl := eq_of_beq hv
    exact decode_a_busWord_wrSave a d
  | bRdRom0 a =>
    cases hw
    obtain rfl := eq_of_beq hv
    exact decode_b_busWord_rom0 (ctrlWindow_of_inRange 0 1 hwf).2 0
  | bRdRomX a =>
    cases hw
    obtain rfl := eq_of_beq hv
    obtain ⟨hlo, hhi⟩ := ctrlWindow_of_inRange 2 3 hwf
    exact decode_b_busWord_romX hlo hhi 0
  | bRdSave a =>
    cases hw
    obtain rfl := eq_of_beq hv
    exact decode_b_busWord_rdSave a 0
  | bWrRamEn a d =>
    cases hw
    obtain rfl := eq_of_beq hv
    exact decode_b_busWord_ramEn (ctrlWindow_eq_of_inRange 0 hwf) d
  | bWrRomLo a d =>
    cases hw
    obtain rfl := eq_of_beq hv
    exact decode_b_busWord_romLo (ctrlWindow_eq_of_inRange 1 hwf) d
  | bWrBankHi a d =>
    cases hw
    obtain rfl := eq_of_beq hv
    exact decode_b_busWord_bankHi (ctrlWindow_eq_of_inRange 2 hwf) d
  | bWrMode a d =>
    cases hw
    obtain rfl := eq_of_beq hv
    exact decode_b_busWord_mode (ctrlWindow_eq_of_inRange 3 hwf) d
  | bWrSave a d =>
    cases hw
    obtain rfl := eq_of_beq hv
    exact decode_b_busWord_wrSave a d
  | cRdRom0 a =>
    cases hw
    obtain rfl := eq_of_beq hv
    exact decode_c_busWord_rom0 (ctrlWindow_of_inRange 0 1 hwf).2 0
  | cRdRomX a =>
    cases hw
    obtain rfl := eq_of_beq hv
    obtain ⟨hlo, hhi⟩ := ctrlWindow_of_inRange 2 3 hwf
    exact decode_c_busWord_romX hlo hhi 0
  | cRdSave a =>
    cases hw
    obtain rfl := eq_of_beq hv
    exact decode_c_busWord_rdSave a 0
  | cWrRamEn a d =>
    cases hw
    obtain rfl := eq_of_beq hv
    exact decode_c_busWord_ramEn (ctrlWindow_eq_of_inRange 0 hwf) d
  | cWrRomB a d =>
    cases hw
    obtain rfl := eq_of_beq hv
    exact decode_c_busWord_romBank (ctrlWindow_eq_of_inRange 1 hwf) d
  | cWrRamB a d =>
    cases hw
    obtain rfl := eq_of_beq hv
    exact decode_c_busWord_ramBank (ctrlWindow_eq_of_inRange 2 hwf) d
  | cWrLatch a d =>
    cases hw
    obtain rfl := eq_of_beq hv
    exact decode_c_busWord_latch (ctrlWindow_eq_of_inRange 3 hwf) d
  | cWrSave a d =>
    cases hw
    obtain rfl := eq_of_beq hv
    exact decode_c_busWord_wrSave a d
  | xRdProgOow a =>
    cases hw
    exact decode_busWord_rdProgOow (ctrlWindow_of_inRange 4 7 hwf).1 v 0
  | xWrCtrlUnmapped a d =>
    cases hw
    exact decode_busWord_ctrlUnmapped (ctrlWindow_of_inRange 4 7 hwf).1 v d
  | load | flush => cases hw

/-! ### From a word to the word of its form -/

/-- A write comes back whole. -/
theorem encode_decode_of_write {w : TWord} (h : wordOp w = .wrCtrl ∨ wordOp w = .wrSave) (v : Variant) :
    encode (decode v w) = some (busWord (wordOp w) (wordAddr w) (wordData w)) := by
  rcases h with h | h <;> rw [h] <;> cases v <;> simp only [decode, decodeA, decodeB, decodeC, h] <;>
    (repeat' split) <;> rfl

/-- A read comes back without its data. -/
theorem encode_decode_of_read {w : TWord} (h : wordOp w = .rdProg ∨ wordOp w = .rdSave) (v : Variant) :
    encode (decode v w) = some (busWord (wordOp w) (wordAddr w) 0) := by
  rcases h with h | h <;> rw [h] <;> cases v <;> simp only [decode, decodeA, decodeB, decodeC, h] <;>
    (repeat' split) <;> rfl

/-- A read is decoded from `op` and the address alone (30 R66). -/
theorem decode_read_congr {w w' : TWord} (h : wordOp w = .rdProg ∨ wordOp w = .rdSave) (hop : wordOp w' = wordOp w)
    (haddr : wordAddr w' = wordAddr w) (v : Variant) : decode v w' = decode v w := by
  rcases h with h | h <;> cases v <;> simp only [decode, decodeA, decodeB, decodeC, hop, haddr, h]

/-- The mask that clears `data` leaves the other two fields. -/
theorem mask_data (w : TWord) : w &&& 0x3FFFF00#26 = busWord (wordOp w) (wordAddr w) 0 := by
  have hmask : 0x3FFFF00#26 = BitVec.allOnes 2 ++ BitVec.allOnes 16 ++ 0#8 := by decide
  calc w &&& 0x3FFFF00#26
      = (opBits (wordOp w) ++ wordAddr w ++ wordData w) &&& (BitVec.allOnes 2 ++ BitVec.allOnes 16 ++ 0#8) := by
        rw [← hmask]
        exact congrArg (· &&& _) (busWord_fields w).symm
    _ = opBits (wordOp w) ++ wordAddr w ++ 0#8 := by
        simp only [BitVec.and_append, BitVec.and_allOnes, BitVec.and_zero]

/-- Settles O2: a word is its three fields, and the form holds those that the operation uses. -/
theorem encodeOfDecodeKeepsTheWord : Obligations.EncodeOfDecodeKeepsTheWord := by
  intro v w
  refine ⟨fun hwrite => ?write, fun hread => ?read⟩
  case write => rw [encode_decode_of_write hwrite, busWord_fields]
  case read =>
    rw [encode_decode_of_read hread, mask_data]
    exact ⟨rfl, decode_read_congr hread (wordOp_busWord ..) (wordAddr_busWord ..) v⟩

/-- Settles O4: fifteen words, each decoded. -/
theorem vectorWordsDecode : Obligations.VectorWordsDecode := by
  unfold Obligations.VectorWordsDecode
  decide

end Sys2Proof

/-! PROOFS. The invariants that every step keeps, of every device. `State.everyDevice_step` leaves three cases: what a
bus transaction did, which `BusEffect` lists, what LOAD made, and what FLUSH left. -/

namespace Sys2Proof.Machine

/-! ### What the invariants look at -/

theorem hasVariant_of_config {s : State} {c : Configuration} (h : s.config = some c) (v : Variant) :
    s.hasVariant v = (c.variant == v) := by
  rw [State.hasVariant, h]

theorem sramLen_of_config {s : State} {c : Configuration} (h : s.config = some c) : s.sramLen = c.sramSize := by
  rw [State.sramLen, h]

theorem clocked_of_config {s : State} {c : Configuration} (h : s.config = some c) : s.clocked = c.clockCapable := by
  rw [State.clocked, h]

/-! ### The selectors' numbers -/

theorem bitVec_ne_zero_iff {n : Nat} (b : BitVec n) : b ≠ 0 ↔ b.toNat ≠ 0 := by
  simp [← BitVec.toNat_inj]

/-- A bank is legal in Variant B where its five low bits are not 0, and then it is not 0 (10 R24). -/
theorem bank_ne_zero_of_low {b : BitVec 7} (h : b &&& 0x1F#7 ≠ 0) : b ≠ 0 := by
  rintro rfl
  exact h rfl

theorem romBankLow_low_ne_zero (old : BitVec 7) (v : Byte) : romBankLow old v &&& 0x1F#7 ≠ 0 := by
  rw [bitVec_ne_zero_iff, bankLowBits_toNat, romBankLow_toNat]
  omega

/-- B.WR_BANKHI leaves the five low bits alone. -/
theorem romBankHigh_low (old : BitVec 7) (v : Byte) : romBankHigh old v &&& 0x1F#7 = old &&& 0x1F#7 := by
  apply BitVec.eq_of_toNat_eq
  rw [bankLowBits_toNat, bankLowBits_toNat, romBankHigh_toNat]
  omega

theorem romBankC_ne_zero (v : Byte) : romBankC v ≠ 0 := by
  rw [bitVec_ne_zero_iff, romBankC_toNat]
  omega

/-! ### What a bus transaction keeps -/

section
variable {c : Configuration} {s t : State}

/-- SRAM stays, or takes one byte within `sram_size`. -/
theorem BusEffect.sram_cases (h : BusEffect c s t) :
    t.sram = s.sram ∨ ∃ i v, i < c.sramSize ∧ c.variant ≠ .a ∧ t.sram = Memory.write s.sram i v := by
  cases h with
  | store hv i hi v => exact .inr ⟨i, v, hi, hv, rfl⟩
  | capture => exact .inl (by rw [(calcRtcReg_frame s).1])
  | clock hv r v =>
    obtain ⟨z, answers, n, h, -⟩ := calcRtcZero_frame (s.setRtc (s.rtc.set r v))
    exact .inl (by rw [h]; rfl)
  | _ => exact .inl rfl

theorem BusEffect.keeps_sramSound (h : BusEffect c s t) (hc : s.config = some c) (hs : s.sramSound) : t.sramSound := by
  have ht : t.config = some c := h.keeps.1.trans hc
  rw [State.sramSound, sramLen_of_config hc] at hs
  rw [State.sramSound, sramLen_of_config ht]
  rcases h.sram_cases with hm | ⟨i, v, hi, -, hm⟩ <;> rw [hm]
  · exact hs
  · exact ⟨Memory.wf_write hs.1 i v, Memory.below_write hs.2 hi⟩

theorem BusEffect.keeps_banksSound (h : BusEffect c s t) (hc : s.config = some c) (hs : s.banksSound) :
    t.banksSound := by
  have ht : t.config = some c := h.keeps.1.trans hc
  simp only [State.banksSound, State.romBankSound, State.ramBankSound, hasVariant_of_config hc,
    hasVariant_of_config ht, beq_iff_eq] at hs ⊢
  obtain ⟨⟨hrom, hlow⟩, hram⟩ := hs
  cases h with
  | romLow hv v =>
    have hlow' := romBankLow_low_ne_zero s.romBank v
    exact ⟨⟨bank_ne_zero_of_low hlow', fun _ => hlow'⟩, hram⟩
  | romHigh hv v =>
    have hlow' : romBankHigh s.romBank v &&& 0x1F#7 ≠ 0 := by rw [romBankHigh_low]; exact hlow hv
    exact ⟨⟨bank_ne_zero_of_low hlow', fun _ => hlow'⟩, hram⟩
  | ramBankB hv v =>
    exact ⟨⟨hrom, hlow⟩, fun _ => (ramBankB_toNat v).trans_lt (Nat.mod_lt _ (by decide))⟩
  | romBankC hv v => exact ⟨⟨romBankC_ne_zero v, fun hb => by simp [hv] at hb⟩, hram⟩
  | ramBankC hv v => exact ⟨⟨hrom, hlow⟩, fun hb => by simp [hv] at hb⟩
  | capture =>
    rw [(calcRtcReg_frame s).1]
    exact ⟨⟨hrom, hlow⟩, hram⟩
  | clock hv r v =>
    obtain ⟨z, answers, n, h, -⟩ := calcRtcZero_frame (s.setRtc (s.rtc.set r v))
    rw [h]
    exact ⟨⟨hrom, hlow⟩, hram⟩
  | _ => exact ⟨⟨hrom, hlow⟩, hram⟩

theorem BusEffect.keeps_epochSound (h : BusEffect c s t) (hc : s.config = some c) (hs : s.epochSound) :
    t.epochSound := by
  have ht : t.config = some c := h.keeps.1.trans hc
  rw [State.epochSound, clocked_of_config hc] at hs
  rw [State.epochSound, clocked_of_config ht, ← hs]
  cases h with
  | capture => exact (calcRtcReg_frame s).2.1
  | clock hv r v =>
    obtain ⟨z, answers, n, h, hz⟩ := calcRtcZero_frame (s.setRtc (s.rtc.set r v))
    rw [h]
    exact hz
  | _ => rfl

/-- A transaction that does not fault leaves the status, the record and the image as they are. -/
theorem BusEffect.status_cases (h : BusEffect c s t) :
    (t.status = s.status ∧ t.faultRecord = s.faultRecord ∧ t.saveImage = s.saveImage) ∨
    ∃ f, t = s.faultedWith f := by
  cases h with
  | fault f => exact .inr ⟨f, rfl⟩
  | capture =>
    rw [(calcRtcReg_frame s).1]
    exact .inl ⟨rfl, rfl, rfl⟩
  | clock hv r v =>
    obtain ⟨z, answers, n, h, -⟩ := calcRtcZero_frame (s.setRtc (s.rtc.set r v))
    rw [h]
    exact .inl ⟨rfl, rfl, rfl⟩
  | _ => exact .inl ⟨rfl, rfl, rfl⟩

theorem BusEffect.keeps_statusSound (h : BusEffect c s t) (hr : s.status = .running) (hs : s.statusSound) :
    t.statusSound := by
  simp only [State.statusSound, State.statusFits, hr, Bool.and_eq_true, Option.isNone_iff_eq_none] at hs
  rcases h.status_cases with ⟨h1, h2, h3⟩ | ⟨f, rfl⟩
  · simp [State.statusSound, State.statusFits, h1, h2, h3, hr, hs]
  · simp [State.statusSound, State.statusFits, State.faultedWith, hs]

theorem BusEffect.keeps_absentSound (h : BusEffect c s t) (hc : s.config = some c) (hs : s.absentSound) :
    t.absentSound := by
  have ht : t.config = some c := h.keeps.1.trans hc
  simp only [State.absentSound, hasVariant_of_config hc, hasVariant_of_config ht, beq_iff_eq, beq_eq_false_iff_ne]
    at hs ⊢
  obtain ⟨ha, hb, hcl⟩ := hs
  cases h with
  | ramEnabled hv | store hv => exact ⟨fun h => absurd h hv, hb, hcl⟩
  | romLow hv | romHigh hv | ramBankB hv | romBankC hv | ramBankC hv =>
    exact ⟨fun h => by simp [hv] at h, hb, hcl⟩
  | ramMode hv => exact ⟨ha, fun h => absurd hv h, hcl⟩
  | unlatch hv => exact ⟨ha, hb, fun h => absurd hv h⟩
  | capture hv =>
    rw [(calcRtcReg_frame s).1]
    exact ⟨ha, hb, fun h => absurd hv h⟩
  | clock hv r v =>
    obtain ⟨z, answers, n, h, -⟩ := calcRtcZero_frame (s.setRtc (s.rtc.set r v))
    rw [h]
    exact ⟨ha, hb, fun h => absurd hv h⟩
  | _ => exact ⟨ha, hb, hcl⟩

theorem BusEffect.keeps_deviceSound (h : BusEffect c s t) (hr : s.runs c) (hs : s.deviceSound) : t.deviceSound := by
  obtain ⟨hconfig, hsram, hrom, hram, hepoch, hstatus, habsent⟩ := hs
  have hconfig' : t.configSound := by rwa [State.configSound, h.keeps.1]
  obtain ⟨hrom', hram'⟩ := h.keeps_banksSound hr.1 ⟨hrom, hram⟩
  exact ⟨hconfig', h.keeps_sramSound hr.1 hsram, hrom', hram', h.keeps_epochSound hr.1 hepoch,
    h.keeps_statusSound hr.2 hstatus, h.keeps_absentSound hr.1 habsent⟩

end

/-! ### What LOAD makes and what FLUSH leaves -/

theorem newDevice_sramSound {c : Configuration} {m : Memory × Option Int} (hwf : Memory.wf m.1 = true)
    (hlt : Memory.below c.sramSize m.1 = true) (s : State) : (s.newDevice c m).sramSound :=
  ⟨hwf, hlt⟩

theorem newDevice_banksSound (s : State) (c : Configuration) (m : Memory × Option Int) : (s.newDevice c m).banksSound :=
  ⟨⟨by simp, fun _ => by simp⟩, fun _ => by simp⟩

/-- An epoch is set only in a clock-capable device, so in Variant C, and Variant A has no SRAM. -/
theorem newDevice_absentSound {c : Configuration} {m : Memory × Option Int} {rom : ByteString}
    (hheader : readHeader rom = .ok c) (hepoch : m.2.isSome = c.clockCapable) (hsram : c.variant = .a → m.1 = [])
    (s : State) : (s.newDevice c m).absentSound := by
  obtain ⟨-, hA, hB, -⟩ := readHeader_facts hheader
  simp only [State.absentSound, hasVariant_of_config (State.newDevice_config s c m), beq_iff_eq, beq_eq_false_iff_ne]
  refine ⟨fun hv => ⟨rfl, rfl, rfl, hsram hv⟩, fun _ => rfl, fun hv => ⟨rfl, rfl, ?unset⟩⟩
  have hclock : c.clockCapable = false := by
    cases hv' : c.variant with
    | a => exact (hA hv').2.1
    | b => exact hB hv'
    | c => exact absurd hv' hv
  rwa [hclock, Option.isSome_eq_false_iff, Option.isNone_iff_eq_none] at hepoch

theorem newDevice_deviceSound {image : ByteString} {save : SaveFile} {init : Seconds} {c : Configuration}
    {m : Memory × Option Int} (h : loadDevice image save init = .ok (c, m)) (s : State) :
    (s.newDevice c m).deviceSound := by
  obtain ⟨hheader, hrom, hwf, hlt, hepoch, hA⟩ := loadDevice_facts h
  obtain ⟨hromBank, hramBank⟩ := newDevice_banksSound s c m
  have hconfig : (s.newDevice c m).configSound := by
    rintro _ ⟨⟩
    exact ⟨hheader, hrom⟩
  exact ⟨hconfig, newDevice_sramSound hwf hlt s, hromBank, hramBank, hepoch, rfl,
    newDevice_absentSound hheader hepoch hA s⟩

/-- FLUSH leaves the status Flushed, which every record and every image fits. -/
theorem teardown_deviceSound {s : State} (h : s.deviceSound) (c : Configuration) (answer : HostWrite) :
    (teardown c answer s).deviceSound := by
  obtain ⟨hconfig, hsram, hrom, hram, hepoch, -, habsent⟩ := h
  obtain ⟨record, image, r, ht, -, -⟩ := teardown_frame c answer s
  rw [ht]
  exact ⟨hconfig, hsram, hrom, hram, hepoch, rfl, habsent⟩

end Sys2Proof.Machine

namespace Sys2Proof

open Sys2Proof.Machine

/-- Settles O58: SRAM changes by a write below `sram_size` alone, and LOAD's SRAM fits. -/
theorem stepKeepsSramSound : Obligations.StepKeepsSramSound := by
  intro s t hs hstep
  refine State.everyDevice_step ?environment ?word ?load ?flush hs hstep
  case environment => exact fun s others response pending answers n h => h
  case word => exact fun c s t hr heffect h => heffect.keeps_sramSound hr.1 h
  case load =>
    intro image save init c m s hload
    obtain ⟨-, -, hwf, hlt, -, -⟩ := loadDevice_facts hload
    exact newDevice_sramSound hwf hlt s
  case flush =>
    intro c answer s hc h
    obtain ⟨record, image, r, ht, -, -⟩ := teardown_frame c answer s
    rw [ht]
    exact h

/-- Settles O59: each write of a selector gives a legal bank, and LOAD's selectors are the reset values. -/
theorem stepKeepsBankSelectorsLegal : Obligations.StepKeepsBankSelectorsLegal := by
  intro s t hs hstep
  refine State.everyDevice_step ?environment ?word ?load ?flush hs hstep
  case environment => exact fun s others response pending answers n h => h
  case word => exact fun c s t hr heffect h => heffect.keeps_banksSound hr.1 h
  case load => exact fun image save init c m s _ => newDevice_banksSound s c m
  case flush =>
    intro c answer s hc h
    obtain ⟨record, image, r, ht, -, -⟩ := teardown_frame c answer s
    rw [ht]
    exact h

/-- Settles O60: a transaction keeps each part of the invariant, LOAD's device has it, and FLUSH touches none of it but
the status. -/
theorem stepKeepsTheInvariant : Obligations.StepKeepsTheInvariant := by
  intro s t hs hstep
  refine State.everyDevice_step ?environment ?word ?load ?flush hs hstep
  case environment => exact fun s others response pending answers n h => h
  case word => exact fun c s t hr heffect h => heffect.keeps_deviceSound hr h
  case load => exact fun image save init c m s hload => newDevice_deviceSound hload s
  case flush => exact fun c answer s _ h => teardown_deviceSound h c answer

/-- Settles O9: there is no device, and every register holds its reset value. -/
theorem resetMeetsTheInvariant : Obligations.ResetMeetsTheInvariant := by
  have hdevice : State.reset.deviceSound := by
    refine ⟨?config, ⟨rfl, rfl⟩, ⟨by decide, by decide⟩, by decide, rfl, rfl, by decide⟩
    case config => rintro _ ⟨⟩
  have hothers : ∀ d ∈ State.reset.others, (State.reset.bring d []).deviceSound := by simp [State.reset]
  exact ⟨hdevice, hothers⟩

end Sys2Proof

/-! PROOFS. One step: what it runs, what it accepts, how a fault is entered, and how the status moves. A bus transaction is
its meaning behind the gate, and every meaning ends in a next state. -/

namespace Sys2Proof.Machine

/-! ### Every meaning ends in a next state -/

theorem readRom_exists_next (c : Configuration) (i : Nat) (s : State) : ∃ t, readRom c i s = .next t := by
  unfold readRom
  split <;> exact ⟨_, rfl⟩

theorem readSram_exists_next (c : Configuration) (i : Nat) (s : State) : ∃ t, readSram c i s = .next t := by
  unfold readSram
  split <;> exact ⟨_, rfl⟩

theorem writeSram_exists_next (c : Configuration) (i : Nat) (v : Byte) (s : State) :
    ∃ t, writeSram c i v s = .next t := by
  unfold writeSram
  split <;> exact ⟨_, rfl⟩

theorem readTarget_exists_next (c : Configuration) (g : SaveTarget) (s : State) : ∃ t, readTarget c g s = .next t := by
  cases g with
  | sramAt i => exact readSram_exists_next c i s
  | absent | rtcReg | unmapped => exact ⟨_, rfl⟩

theorem writeTarget_exists_next (c : Configuration) (g : SaveTarget) (v : Byte) (s : State) :
    ∃ t, writeTarget c g v s = .next t := by
  cases g with
  | sramAt i => exact writeSram_exists_next c i v s
  | absent | rtcReg | unmapped => exact ⟨_, rfl⟩

/-- A branch whose two sides end in a next state does. -/
theorem exists_next_ite {p : Prop} [Decidable p] {x y : StepResult} (hx : ∃ t, x = .next t) (hy : ∃ t, y = .next t) :
    ∃ t, (if p then x else y) = .next t := by
  split
  · exact hx
  · exact hy

/-! ### The gate of every bus transaction -/

/-- The operation `i` is a meaning that ends in a next state, behind the gate of the device and of the form's
variants. -/
def Gated (i : Instr) (s : State) : Prop :=
  ∃ k : Configuration → StepResult, (∀ c, ∃ t, k c = .next t) ∧
    exec i s = onDevice s fun c => if i.inVariant c.variant = true then k c else .refused .formOfAnotherVariant

theorem gated_of_onVariant {i : Instr} {s : State} {v : Variant} {k : Configuration → StepResult}
    (h : exec i s = onVariant v s k) (hv : ∀ v', i.inVariant v' = (v' == v)) (hk : ∀ c, ∃ t, k c = .next t) :
    Gated i s := by
  refine ⟨k, hk, h.trans ?_⟩
  simp only [onVariant, hv, beq_iff_eq]

theorem gated_of_onDevice {i : Instr} {s : State} {k : Configuration → StepResult} (h : exec i s = onDevice s k)
    (hv : ∀ v, i.inVariant v = true) (hk : ∀ c, ∃ t, k c = .next t) : Gated i s :=
  ⟨k, hk, by simp only [h, hv, if_true]⟩

theorem exec_bus_gated {i : Instr} (hi : encode i ≠ none) (s : State) : Gated i s := by
  cases i with
  | aRdRom => exact gated_of_onVariant rfl (fun _ => rfl) fun c => readRom_exists_next ..
  | aRdSave | aWrCtrl | aWrSave => exact gated_of_onVariant rfl (fun _ => rfl) fun c => ⟨_, rfl⟩
  | bRdRom0 | bRdRomX | cRdRom0 | cRdRomX =>
    exact gated_of_onVariant rfl (fun _ => rfl) fun c => readRom_exists_next ..
  | bRdSave =>
    exact gated_of_onVariant rfl (fun _ => rfl) fun c => exists_next_ite ⟨_, rfl⟩ (readSram_exists_next ..)
  | bWrRamEn | bWrRomLo | bWrMode | cWrRamEn | cWrRomB | cWrRamB =>
    exact gated_of_onVariant rfl (fun _ => rfl) fun c => ⟨_, rfl⟩
  | bWrBankHi => exact gated_of_onVariant rfl (fun _ => rfl) fun c => exists_next_ite ⟨_, rfl⟩ ⟨_, rfl⟩
  | bWrSave =>
    exact gated_of_onVariant rfl (fun _ => rfl) fun c => exists_next_ite ⟨_, rfl⟩ (writeSram_exists_next ..)
  | cRdSave =>
    exact gated_of_onVariant rfl (fun _ => rfl) fun c => exists_next_ite (readTarget_exists_next ..) ⟨_, rfl⟩
  | cWrLatch =>
    exact gated_of_onVariant rfl (fun _ => rfl) fun c => exists_next_ite ⟨_, rfl⟩ (exists_next_ite ⟨_, rfl⟩ ⟨_, rfl⟩)
  | cWrSave =>
    exact gated_of_onVariant rfl (fun _ => rfl) fun c => exists_next_ite (writeTarget_exists_next ..) ⟨_, rfl⟩
  | xRdProgOow | xWrCtrlUnmapped => exact gated_of_onDevice rfl (fun _ => rfl) fun c => ⟨_, rfl⟩
  | load | flush => exact absurd rfl hi

/-- A Running device takes every form of its variant. -/
theorem exec_bus_runs {i : Instr} {s : State} {c : Configuration} (hi : encode i ≠ none) (h : s.runs c)
    (hv : i.inVariant c.variant = true) : ∃ t, exec i s = .next t := by
  obtain ⟨k, hk, hexec⟩ := exec_bus_gated hi s
  rw [hexec, onDevice_runs h, if_pos hv]
  exact hk c

theorem exec_bus_not_fault {i : Instr} (hi : encode i ≠ none) (s : State) (f : Fault) : exec i s ≠ .fault f := by
  obtain ⟨k, hk, hexec⟩ := exec_bus_gated hi s
  rw [hexec]
  refine onDevice_not_fault fun c => ?_
  split
  · obtain ⟨t, ht⟩ := hk c
    simp [ht]
  · simp

theorem exec_load_not_fault (image : ByteString) (save : SaveFile) (init : Seconds) (s : State) (f : Fault) :
    exec (.load image save init) s ≠ .fault f := by
  change execLoad image save init s ≠ _
  unfold execLoad
  split <;> simp

theorem exec_flush_not_fault (answer : HostWrite) (s : State) (f : Fault) : exec (.flush answer) s ≠ .fault f := by
  change execFlush answer s ≠ _
  unfold execFlush
  split
  · simp
  · split <;> simp

/-! ### A step that turns to another device, idles, or finds no device -/

theorem step_idle {s : State} (hp : s.pending = []) : step s = .next s := by
  simp [step, fetch, hp]

theorem step_word_no_device {s : State} {w : TWord} {rest : List Command} (hc : s.config = none)
    (hp : s.pending = .word w :: rest) : step s = .refused .noDevice := by
  simp [step, fetch, hp, hc]

theorem selectDevice_absent {n : Nat} {s : State} (h : s.others[n]? = none) :
    selectDevice n s = .refused .noDevice := by
  rw [selectDevice, h]

theorem selectDevice_present {n : Nat} {s : State} {d : Device} (h : s.others[n]? = some d) :
    selectDevice n s = .next (s.bring d (s.asDevice.toList ++ s.others.eraseIdx n)) := by
  rw [selectDevice, h]

/-- A step that takes a word leaves one of the effects of a transaction, in a Running device. -/
theorem step_word_effect {s t : State} {w : TWord} {rest : List Command} (hp : s.pending = .word w :: rest)
    (h : step s = .next t) :
    ∃ c, s.runs c ∧ exec (decode c.variant w) (s.setPending rest) = .next t ∧ BusEffect c (s.setPending rest) t := by
  cases hc : s.config with
  | none => simp [step_word_no_device hc hp] at h
  | some c =>
    rw [step_word hc hp] at h
    obtain ⟨d, hd, heffect⟩ := exec_bus_effect (encode_decode_ne_none _ _) h
    obtain rfl : c = d := Option.some.inj (hc.symm.trans hd.1)
    exact ⟨c, hd, h, heffect⟩

theorem step_not_fault (s : State) (f : Fault) : step s ≠ .fault f := by
  rcases hp : s.pending with _ | ⟨w | ⟨image, save, init⟩ | answer | n, rest⟩
  · simp [step_idle hp]
  · cases hc : s.config with
    | none => simp [step_word_no_device hc hp]
    | some c =>
      rw [step_word hc hp]
      exact exec_bus_not_fault (encode_decode_ne_none _ _) _ f
  · rw [step_load hp]
    exact exec_load_not_fault _ _ _ _ f
  · rw [step_flush hp]
    exact exec_flush_not_fault _ _ f
  · rw [step_select hp]
    unfold selectDevice
    split <;> simp

end Sys2Proof.Machine

namespace Sys2Proof

open Sys2Proof.Machine

/-- Settles O5: the step's own law for a word. -/
theorem stepRunsTheDecodedWord : Obligations.StepRunsTheDecodedWord :=
  fun _ _ _ _ hconfig hpending => step_word hconfig hpending

/-- Settles O6: one law for each head of the queue, and turning puts a device exactly as it stands to hand. -/
theorem stepRunsHostOperationsAndIdles : Obligations.StepRunsHostOperationsAndIdles := by
  intro s rest image save init answer w n
  refine ⟨step_load, step_flush, step_idle, step_word_no_device, fun hp hn => ?absent, fun d hp hd => ?present⟩
  case absent => rw [step_select hp, selectDevice_absent (s := s.setPending rest) hn]
  case present =>
    rw [step_select hp, selectDevice_present (s := s.setPending rest) hd]
    exact ⟨_, rfl, rfl, rfl, rfl, rfl, rfl, rfl⟩

/-- Settles O7: a word decodes to a form of the device's own variant, and every meaning behind the gate ends in a next
state. -/
theorem runningAcceptsEveryWord : Obligations.RunningAcceptsEveryWord := by
  refine ⟨fun s c w rest hruns hp => ?accepts, step_not_fault⟩
  rw [step_word hruns.1 hp]
  exact exec_bus_runs (encode_decode_ne_none _ _) hruns (decode_inVariant ..)

/-- Settles O47: `addr[15]` set puts the address past the four windows, and the two forms name it in their faults. -/
theorem illegalFormsFault : Obligations.IllegalFormsFault := by
  intro s c addr value hruns haddr
  have hwindow : 4 ≤ ctrlWindow addr := by
    rw [ctrlWindow_eq]
    omega
  exact ⟨decode_busWord_rdProgOow hwindow c.variant value, onDevice_runs hruns _,
    decode_busWord_ctrlUnmapped hwindow c.variant value, onDevice_runs hruns _⟩

/-- Settles O48: of all that a transaction can do, only entering a fault changes the status. -/
theorem faultsArePrecise : Obligations.FaultsArePrecise := by
  intro s t w rest f hrunning hp hstep hfaulted
  obtain ⟨_, -, -, heffect⟩ := step_word_effect hp hstep
  rcases heffect.status_cases with ⟨hstatus, -, -⟩ | ⟨g, rfl⟩
  · simp [hstatus, hrunning] at hfaulted
  · obtain rfl : g = f := by simpa [State.faultedWith] using hfaulted
    rfl

/-- Settles O49: the gate refuses in Faulted, and FLUSH is taken and keeps the first fault. -/
theorem faultedAcceptsOnlyFlush : Obligations.FaultedAcceptsOnlyFlush := by
  intro s c f i answer hc hfaulted
  refine ⟨exec_bus_faulted hc hfaulted i, ?flush⟩
  obtain ⟨record, image, r, ht, hfirst, -⟩ := teardown_frame c answer s
  refine ⟨_, exec_flush answer hc (by simp [hfaulted]), ?_⟩
  rw [ht]
  exact ⟨rfl, hfirst f⟩

/-- Settles O24: in Variant A a transaction can only answer or enter a fault. -/
theorem variantAKeepsItsState : Obligations.VariantAKeepsItsState := by
  intro s t c w rest hc hv hp hstep
  obtain ⟨d, hruns, -, heffect⟩ := step_word_effect hp hstep
  obtain rfl : c = d := Option.some.inj (hc.symm.trans hruns.1)
  cases heffect with
  | answer r => rfl
  | fault f => rfl
  | ramEnabled h | store h => exact absurd hv h
  | romLow h | romHigh h | ramBankB h | ramMode h | romBankC h | ramBankC h | unlatch h | capture h | clock h =>
    simp [hv] at h

/-- Settles O57: FLUSH, LOAD, a turn, and a fault of a word each move the status, and nothing else does. -/
theorem statusMovesOneWay : Obligations.StatusMovesOneWay := by
  intro s t hstep
  rcases step_next hstep with ⟨-, rfl⟩ | ⟨w, rest, c, hp, hruns, -, heffect⟩ | ⟨image, save, init, rest, hp, hload⟩ |
    ⟨answer, rest, hp, hflush⟩ | ⟨n, rest, d, hp, hd, rfl⟩
  · exact .inl rfl
  · rcases heffect.status_cases with ⟨hstatus, -, -⟩ | ⟨f, rfl⟩
    · exact .inl hstatus
    · exact .inr (.inl ⟨w, rest, f, hp, hruns.2, rfl⟩)
  · rcases exec_load_next hload with ⟨f, -, rfl⟩ | ⟨c, m, -, rfl⟩
    · exact .inl rfl
    · exact .inr (.inr (.inr (.inl ⟨image, save, init, rest, hp, rfl⟩)))
  · obtain ⟨c, -, hne, rfl⟩ := exec_flush_next hflush
    obtain ⟨record, saved, r, ht, -, -⟩ := teardown_frame c answer (s.setPending rest)
    rw [ht]
    exact .inr (.inr (.inl ⟨answer, rest, hp, hne, rfl⟩))
  · exact .inr (.inr (.inr (.inr ⟨n, rest, d, hp, hd, rfl⟩)))

end Sys2Proof

/-! PROOFS. The program window and the save window of each variant. A form that passes its gate ends in one access at an
index that the operand assembly gives as a sum, and the access is inside its array or faults. -/

namespace Sys2Proof

open Sys2Proof.Machine

/-! ### What the forms do in a Running device -/

section
variable {s : State} {c : Configuration}

theorem exec_aRdRom_runs (h : s.runs c) (hv : c.variant = .a) (a : Addr) :
    exec (.aRdRom a) s = readRom c (romIndexA a) s :=
  onVariant_runs h hv _

theorem exec_aWrCtrl_runs (h : s.runs c) (hv : c.variant = .a) (a : Addr) (d : Byte) :
    exec (.aWrCtrl a d) s = .next { s with response := .done } :=
  (onVariant_runs h hv _).trans (finish_eq s)

theorem exec_bRdRom0_runs (h : s.runs c) (hv : c.variant = .b) (a : Addr) :
    exec (.bRdRom0 a) s = readRom c (romOffset a) s :=
  onVariant_runs h hv _

theorem exec_bRdRomX_runs (h : s.runs c) (hv : c.variant = .b) (a : Addr) :
    exec (.bRdRomX a) s = readRom c (romIndexX s.romBank a) s :=
  onVariant_runs h hv _

theorem exec_bRdSave_closed (h : s.runs c) (hv : c.variant = .b) (hg : c.sramSize = 0 ∨ s.ramEnabled = false)
    (a : Addr) : exec (.bRdSave a) s = .next { s with response := .byte 0x00 } :=
  (onVariant_runs h hv _).trans (if_pos ((saveGateClosedB_eq c s).2 hg))

theorem saveGateClosedB_open (hsize : c.sramSize ≠ 0) (hen : s.ramEnabled = true) : ¬saveGateClosedB c s = true := by
  rw [saveGateClosedB_eq]
  simp [hsize, hen]

theorem exec_bRdSave_open (h : s.runs c) (hv : c.variant = .b) (hsize : c.sramSize ≠ 0) (hen : s.ramEnabled = true)
    (a : Addr) : exec (.bRdSave a) s = readSram c (saveIndexB s a) s :=
  (onVariant_runs h hv _).trans (if_neg (saveGateClosedB_open hsize hen))

theorem exec_bWrSave_closed (h : s.runs c) (hv : c.variant = .b) (hg : c.sramSize = 0 ∨ s.ramEnabled = false)
    (a : Addr) (d : Byte) : exec (.bWrSave a d) s = .next { s with response := .done } :=
  (onVariant_runs h hv _).trans (if_pos ((saveGateClosedB_eq c s).2 hg))

theorem exec_bWrSave_open (h : s.runs c) (hv : c.variant = .b) (hsize : c.sramSize ≠ 0) (hen : s.ramEnabled = true)
    (a : Addr) (d : Byte) : exec (.bWrSave a d) s = writeSram c (saveIndexB s a) d s :=
  (onVariant_runs h hv _).trans (if_neg (saveGateClosedB_open hsize hen))

theorem exec_cRdRom0_runs (h : s.runs c) (hv : c.variant = .c) (a : Addr) :
    exec (.cRdRom0 a) s = readRom c (romOffset a) s :=
  onVariant_runs h hv _

theorem exec_cRdRomX_runs (h : s.runs c) (hv : c.variant = .c) (a : Addr) :
    exec (.cRdRomX a) s = readRom c (romIndexX s.romBank a) s :=
  onVariant_runs h hv _

theorem exec_cWrRamEn_runs (h : s.runs c) (hv : c.variant = .c) (a : Addr) (d : Byte) :
    exec (.cWrRamEn a d) s = .next { s with ramEnabled := ramEnableOf d, response := .done } :=
  (onVariant_runs h hv _).trans (finish_eq _)

theorem exec_cRdSave_disabled (h : s.runs c) (hv : c.variant = .c) (hen : s.ramEnabled = false) (a : Addr) :
    exec (.cRdSave a) s = .next { s with response := .byte 0x00 } :=
  (onVariant_runs h hv _).trans (if_neg (by simp [hen]))

theorem exec_cRdSave_enabled (h : s.runs c) (hv : c.variant = .c) (hen : s.ramEnabled = true) (a : Addr) :
    exec (.cRdSave a) s = readTarget c (saveTargetC c s.ramBank a) s :=
  (onVariant_runs h hv _).trans (if_pos hen)

theorem exec_cWrSave_disabled (h : s.runs c) (hv : c.variant = .c) (hen : s.ramEnabled = false) (a : Addr) (d : Byte) :
    exec (.cWrSave a d) s = .next { s with response := .done } :=
  (onVariant_runs h hv _).trans (if_neg (by simp [hen]))

theorem exec_cWrSave_enabled (h : s.runs c) (hv : c.variant = .c) (hen : s.ramEnabled = true) (a : Addr) (d : Byte) :
    exec (.cWrSave a d) s = writeTarget c (saveTargetC c s.ramBank a) d s :=
  (onVariant_runs h hv _).trans (if_pos hen)

end

/-! ### What the save window of Variant C shows -/

theorem saveTargetC_noSram {c : Configuration} {b : Byte} (hb : b.toNat ≤ 3) (hsize : c.sramSize = 0) (a : Addr) :
    saveTargetC c b a = .absent := by
  rw [saveTargetC_bank hb, if_pos hsize]

theorem saveTargetC_sram {c : Configuration} {b : Byte} (hb : b.toNat ≤ 3) (hsize : c.sramSize ≠ 0) (a : Addr) :
    saveTargetC c b a = .sramAt (b.toNat * 0x2000 + a.toNat % 0x2000) := by
  rw [saveTargetC_bank hb, if_neg hsize]

/-! ### A read and a write at an index of SRAM -/

/-- A write inside SRAM that is in canonical form stores the byte at its index and nowhere else. -/
theorem writeSram_stores {s : State} {c : Configuration} {i : Nat} (hs : s.sramSound) (hi : i < c.sramSize) (v : Byte) :
    ∃ m : Memory, writeSram c i v s = .next { s with sram := m, response := .done } ∧
      m.read i = v ∧ ∀ a, a ≠ i → m.read a = s.sram.read a :=
  ⟨_, writeSram_inside hi v s, Memory.read_write_same hs.1 i v, fun _ ha => Memory.read_write_other ha⟩

/-! ### The index of Variant B's save window -/

theorem saveIndexB_eq (s : State) (a : Addr) :
    saveIndexB s a = (if s.ramMode = true then s.ramBank.toNat else 0) * 0x2000 + a.toNat % 0x2000 :=
  sramIndex_eq _ a

/-! ### Program reads -/

/-- Settles O23: below 0x8000 the index is the address itself. -/
theorem variantAProgramWindow : Obligations.VariantAProgramWindow := by
  intro s c addr value hruns hv haddr
  have hwindow : ctrlWindow addr < 4 := by
    rw [ctrlWindow_eq]
    omega
  rw [exec_aRdRom_runs hruns hv, romIndexA_eq haddr]
  exact ⟨fun hin => readRom_inside hin s, fun hout => readRom_outside hout s,
    decode_a_busWord_wrCtrl hwindow value, exec_aWrCtrl_runs hruns hv addr value⟩

/-- Settles O25: below 0x4000 the offset is the address itself, and no bank is added. -/
theorem fixedWindowShowsTheFirstBank : Obligations.FixedWindowShowsTheFirstBank := by
  intro s c addr hruns haddr
  have hindex : romOffset addr = addr.toNat := (romOffset_eq addr).trans (Nat.mod_eq_of_lt haddr)
  refine ⟨fun hin => ⟨fun hv => ?_, fun hv => ?_⟩, fun hout => ⟨fun hv => ?_, fun hv => ?_⟩⟩
  · rw [exec_bRdRom0_runs hruns hv, hindex, readRom_inside hin]
  · rw [exec_cRdRom0_runs hruns hv, hindex, readRom_inside hin]
  · rw [exec_bRdRom0_runs hruns hv, hindex, readRom_outside hout]
  · rw [exec_cRdRom0_runs hruns hv, hindex, readRom_outside hout]

/-- Settles O26: the bank and the offset do not overlap, so the index is their sum. -/
theorem switchableWindowShowsTheSelectedBank : Obligations.SwitchableWindowShowsTheSelectedBank := by
  intro s c addr i hruns hlo hhi hi
  have hindex : romIndexX s.romBank addr = i := by
    rw [romIndexX_eq, hi]
    omega
  refine ⟨fun hin => ⟨fun hv => ?_, fun hv => ?_⟩, fun hout => ⟨fun hv => ?_, fun hv => ?_⟩⟩
  · rw [exec_bRdRomX_runs hruns hv, hindex, readRom_inside hin]
  · rw [exec_cRdRomX_runs hruns hv, hindex, readRom_inside hin]
  · rw [exec_bRdRomX_runs hruns hv, hindex, readRom_outside hout]
  · rw [exec_cRdRomX_runs hruns hv, hindex, readRom_outside hout]

/-! ### Save accesses -/

/-- Settles O31: a closed gate answers 0, and an open one reads at the effective bank. -/
theorem variantBSaveRead : Obligations.VariantBSaveRead := by
  intro s c addr i hruns hv hi
  have hindex : saveIndexB s addr = i := (saveIndexB_eq s addr).trans hi.symm
  refine ⟨fun hgate => exec_bRdSave_closed hruns hv hgate addr, fun hsize hen hin => ?inside,
    fun hsize hen hout => ?outside⟩
  case inside => rw [exec_bRdSave_open hruns hv hsize hen, hindex, readSram_inside hin]
  case outside => rw [exec_bRdSave_open hruns hv hsize hen, hindex, readSram_outside hout]

/-- Settles O32: a closed gate stores nothing, and an open one writes at the effective bank. -/
theorem variantBSaveWrite : Obligations.VariantBSaveWrite := by
  intro s c addr value i hruns hv hs hi
  have hindex : saveIndexB s addr = i := (saveIndexB_eq s addr).trans hi.symm
  refine ⟨fun hgate => exec_bWrSave_closed hruns hv hgate addr value, fun hsize hen hin => ?inside,
    fun hsize hen hout => ?outside⟩
  case inside =>
    rw [exec_bWrSave_open hruns hv hsize hen, hindex]
    exact writeSram_stores hs hin value
  case outside => rw [exec_bWrSave_open hruns hv hsize hen, hindex, writeSram_outside hout]

/-- Settles O37: the gate first, and then one case for each kind of selection. -/
theorem variantCSaveRead : Obligations.VariantCSaveRead := by
  intro s c addr i hruns hv hi
  refine ⟨fun hen => exec_cRdSave_disabled hruns hv hen addr, fun hen hbank hsize => ?absent,
    fun hen hbank hsize hin => ?inside, fun hen hbank hsize hout => ?outside, fun hen hlo hhi => ?clock,
    fun hen hbank => ?unmapped⟩
  case absent =>
    rw [exec_cRdSave_enabled hruns hv hen, saveTargetC_noSram hbank hsize]
    exact returnByte_eq 0x00 s
  case inside =>
    rw [exec_cRdSave_enabled hruns hv hen, saveTargetC_sram hbank hsize, ← hi]
    exact readSram_inside hin s
  case outside =>
    rw [exec_cRdSave_enabled hruns hv hen, saveTargetC_sram hbank hsize, ← hi]
    exact readSram_outside hout s
  case clock =>
    obtain ⟨r, htarget, hget, -⟩ := saveTargetC_clock (c := c) (addr := addr) hlo hhi
    rw [exec_cRdSave_enabled hruns hv hen, htarget]
    exact ⟨s.rtc.get r, hget s.rtc, returnByte_eq _ s⟩
  case unmapped =>
    rw [exec_cRdSave_enabled hruns hv hen, saveTargetC_unmapped hbank]
    exact raiseFault_eq _ s

/-- Settles O38: the gate first, and then one case for each kind of selection off the clock. -/
theorem variantCSaveWrite : Obligations.VariantCSaveWrite := by
  intro s c addr value i hruns hv hs hi
  refine ⟨fun hen => exec_cWrSave_disabled hruns hv hen addr value, fun hen hbank hsize => ?absent,
    fun hen hbank hsize hin => ?inside, fun hen hbank hsize hout => ?outside, fun hen hbank => ?unmapped⟩
  case absent =>
    rw [exec_cWrSave_enabled hruns hv hen, saveTargetC_noSram hbank hsize]
    exact finish_eq s
  case inside =>
    rw [exec_cWrSave_enabled hruns hv hen, saveTargetC_sram hbank hsize, ← hi]
    exact writeSram_stores hs hin value
  case outside =>
    rw [exec_cWrSave_enabled hruns hv hen, saveTargetC_sram hbank hsize, ← hi]
    exact writeSram_outside hout value s
  case unmapped =>
    rw [exec_cWrSave_enabled hruns hv hen, saveTargetC_unmapped hbank]
    exact raiseFault_eq _ s

/-! ### Bank selection -/

/-- Settles O34: the written bit compares the whole byte with 0x0A. -/
theorem variantCRamEnable : Obligations.VariantCRamEnable := by
  intro s c addr value hruns hv hhi
  have hwindow : ctrlWindow addr = 0 := ctrlWindow_of_bounds (Nat.zero_le _) hhi
  rw [exec_cWrRamEn_runs hruns hv, ramEnableOf_eq]
  refine ⟨decode_c_busWord_ramEn hwindow value, fun heq => ?enables, fun hne => ?disables⟩
  case enables => rw [decide_eq_true heq]
  case disables => rw [decide_eq_false hne]

/-- Settles O33: each write sets its own bits and keeps the others, so the order plays no part. -/
theorem everyLegalBankIsReachable : Obligations.EveryLegalBankIsReachable := by
  intro s c bank lo hi hruns hlo hhi
  have hbank := bank.isLt
  refine ⟨fun hv hmode hne => ?b, fun hv hne => ?c⟩
  case b =>
    have hlo0 : lo.toNat ≠ 0 := (bitVec_ne_zero_iff lo).1 hne
    have hlowHigh : romBankHigh (romBankLow s.romBank lo) hi = bank := by
      apply BitVec.eq_of_toNat_eq
      rw [romBankHigh_toNat, romBankLow_toNat]
      omega
    have hhighLow : romBankLow (romBankHigh s.romBank hi) lo = bank := by
      apply BitVec.eq_of_toNat_eq
      rw [romBankLow_toNat, romBankHigh_toNat]
      omega
    constructor
    · exact ⟨_, _, exec_bWrRomLo_runs hruns hv _ lo,
        exec_bWrBankHi_rom (s := { s with romBank := _, response := .done }) hruns hv hmode _ hi, hlowHigh⟩
    · exact ⟨_, _, exec_bWrBankHi_rom hruns hv hmode _ hi,
        exec_bWrRomLo_runs (s := { s with romBank := _, response := .done }) hruns hv _ lo, hhighLow⟩
  case c =>
    refine ⟨_, exec_cWrRomB_runs hruns hv _ _, BitVec.eq_of_toNat_eq ?_⟩
    have hne0 : bank.toNat ≠ 0 := (bitVec_ne_zero_iff bank).1 hne
    simp only [romBankC_toNat, BitVec.toNat_setWidth]
    omega

end Sys2Proof

/-! PROOFS. The clock of Variant C (43). A capture splits the elapsed seconds into the registers, a register write sets
the epoch back by the seconds the registers stand for, and the two undo each other below 512 days. -/

namespace Sys2Proof

open Sys2Proof.Machine

/-! ### Draws and elapsed seconds -/

/-- A draw at or after the epoch. -/
theorem elapsedSince_of_le {z t : Int} (h : z ≤ t) : (elapsedSince z t : Int) = t - z := by
  rw [elapsedSince, Int.toNat_of_nonneg (le_max_left ..)]
  omega

theorem elapsedSince_days_lt {z t : Int} (h : t - z < 512 * 86400) : elapsedSince z t / 86400 < 512 := by
  rw [elapsedSince]
  omega

/-! ### A capture and a register write in a Running device -/

section
variable {s : State} {c : Configuration}

/-- A capture below 512 days. -/
theorem exec_cWrLatch_shown {z : Int} (h : s.runs c) (hv : c.variant = .c) (hl : s.latched = false)
    (hz : s.rtcZero = some z) (hh : haltFlag s.rtc.flags = false) (hd : elapsedSince z s.nextDraw / 86400 < 512)
    (a : Addr) :
    exec (.cWrLatch a 0x01) s = .next { s with
      rtc := derivedRegs (elapsedSince z s.nextDraw) s.rtc.flags
      latched := true
      timeAnswers := s.timeAnswers.tail
      drawCount := s.drawCount + 1
      response := .done } := by
  rw [exec_cWrLatch_capture h hv hl, calcRtcReg_shown hz hh hd]

/-- An enabled save write with a clock register selected. -/
theorem exec_cWrSave_clock {r : RtcReg} {a : Addr} (h : s.runs c) (hv : c.variant = .c) (hen : s.ramEnabled = true)
    (ht : saveTargetC c s.ramBank a = .rtcReg r) (d : Byte) :
    exec (.cWrSave a d) s = .next { calcRtcZero (s.setRtc (s.rtc.set r d)) with response := .done } := by
  rw [exec_cWrSave_enabled h hv hen, ht]
  exact finish_eq _

/-- With an epoch, the write rebases it at one draw. -/
theorem exec_cWrSave_rebases {r : RtcReg} {a : Addr} {z : Int} (h : s.runs c) (hv : c.variant = .c)
    (hen : s.ramEnabled = true) (ht : saveTargetC c s.ramBank a = .rtcReg r) (hz : s.rtcZero = some z) (d : Byte) :
    exec (.cWrSave a d) s = .next { s with
      rtc := s.rtc.set r d
      rtcZero := some (s.nextDraw - registerSeconds (s.rtc.set r d))
      timeAnswers := s.timeAnswers.tail
      drawCount := s.drawCount + 1
      response := .done } := by
  rw [exec_cWrSave_clock h hv hen ht, calcRtcZero_set (s := s.setRtc (s.rtc.set r d)) hz]
  rfl

/-- What the capture leaves for the operation after it. -/
theorem cWrLatch_shown_next {t : State} {z : Int} {a : Addr} (h : s.runs c) (hv : c.variant = .c)
    (hl : s.latched = false) (hz : s.rtcZero = some z) (hh : haltFlag s.rtc.flags = false)
    (hd : elapsedSince z s.nextDraw / 86400 < 512) (hexec : exec (.cWrLatch a 0x01) s = .next t) :
    t.runs c ∧ t.ramEnabled = s.ramEnabled ∧ t.ramBank = s.ramBank ∧ t.rtcZero = some z ∧
      t.rtc = derivedRegs (elapsedSince z s.nextDraw) s.rtc.flags ∧ t.nextDraw = s.afterDraw.nextDraw := by
  rw [exec_cWrLatch_shown h hv hl hz hh hd] at hexec
  obtain rfl := Host.Outcome.next.inj hexec
  exact ⟨h, rfl, rfl, hz, rfl, rfl⟩

/-- What the register write leaves for the operation after it. -/
theorem cWrSave_rebases_next {t : State} {r : RtcReg} {a : Addr} {z : Int} {d : Byte} (h : s.runs c)
    (hv : c.variant = .c) (hen : s.ramEnabled = true) (ht : saveTargetC c s.ramBank a = .rtcReg r)
    (hz : s.rtcZero = some z) (hexec : exec (.cWrSave a d) s = .next t) :
    t.runs c ∧ t.latched = s.latched ∧ t.rtc = s.rtc.set r d ∧
      t.rtcZero = some (s.nextDraw - registerSeconds t.rtc) ∧ t.nextDraw = s.afterDraw.nextDraw := by
  rw [exec_cWrSave_rebases h hv hen ht hz] at hexec
  obtain rfl := Host.Outcome.next.inj hexec
  exact ⟨h, rfl, rfl, rfl, rfl⟩

end

/-- Settles O39: the selection names one register, and the epoch is the draw less the registers' seconds. -/
theorem clockWriteRebasesTheEpoch : Obligations.ClockWriteRebasesTheEpoch := by
  intro s c addr value hruns hv hen hlo hhi
  obtain ⟨r, htarget, -, hset⟩ := saveTargetC_clock (c := c) (addr := addr) hlo hhi
  refine ⟨s.rtc.set r value, hset s.rtc value, fun hz => ?unclocked, fun z hz => ?clocked⟩
  case unclocked =>
    rw [exec_cWrSave_clock hruns hv hen htarget, calcRtcZero_unset (s := s.setRtc (s.rtc.set r value)) hz]
    rfl
  case clocked =>
    rw [exec_cWrSave_rebases hruns hv hen htarget hz, registerSeconds_eq]
    simp only [Int.sub_sub]

/-- Settles O42: the registers are the elapsed count's digits, and below 512 days the day count does not wrap. -/
theorem captureShowsTheElapsedTime : Obligations.CaptureShowsTheElapsedTime := by
  intro s c addr z e hruns hv hlatched hz hhalt he hdays
  have helapsed : elapsedSince z s.nextDraw = e := elapsedSince_eq he
  obtain ⟨hsec, hmin, hhour, hday, hflags⟩ := derivedRegs_numbers e s.rtc.flags
  refine ⟨derivedRegs e s.rtc.flags, ?_, hsec, hmin, hhour, hday.trans (Nat.mod_eq_of_lt hdays), hflags⟩
  rw [exec_cWrLatch_shown hruns hv hlatched hz hhalt (helapsed ▸ hdays), helapsed]

/-- Settles O43: the derived registers stand for the count modulo 512 days, with or without CARRY, and the second draw
rebases the epoch on them. -/
theorem captureOverflowSetsCarryAndRebases : Obligations.CaptureOverflowSetsCarryAndRebases := by
  intro s c addr z e hruns hv hlatched hz hhalt he hdays
  have helapsed : elapsedSince z s.nextDraw = e := elapsedSince_eq (by omega)
  obtain ⟨hsec, hmin, hhour, hday, -⟩ := derivedRegs_numbers e s.rtc.flags
  obtain ⟨hparity, hcarry, hbits⟩ := withCarry_facts (derivedRegs e s.rtc.flags).flags
  refine ⟨carried (derivedRegs e s.rtc.flags), ?_, hsec, hmin, hhour, ?_, hcarry, fun k hk hk' => ?_⟩
  · rw [exec_cWrLatch_capture hruns hv hlatched, calcRtcReg_overflow hz hhalt (helapsed ▸ hdays), helapsed,
      registerSeconds_carried, registerSeconds_derivedRegs]
  · rw [← hday, ← hparity]
    rfl
  · exact (hbits k hk').trans (withDayHigh_bit _ _ hk)

/-- Settles O44: the write makes the epoch the draw less the registers' seconds, so the capture's elapsed count is those
seconds and the time between the draws. -/
theorem captureCountsFromTheWrite : Obligations.CaptureCountsFromTheWrite := by
  intro s t c addr addr' value e hruns hv hen hlo hhi hlatched hz hwrite hhalt he hdays
  obtain ⟨z, hz⟩ := Option.ne_none_iff_exists'.1 hz
  obtain ⟨r, htarget, -, -⟩ := saveTargetC_clock (c := c) (addr := addr) hlo hhi
  obtain ⟨htruns, htlatched, -, htzero, htdraw⟩ := cWrSave_rebases_next hruns hv hen htarget hz hwrite
  rw [← registerSeconds_eq] at he
  have helapsed : (e : Int) = max 0 (t.nextDraw - (s.nextDraw - registerSeconds t.rtc)) := by
    rw [htdraw]
    omega
  obtain ⟨g, hcapture, hsec, hmin, hhour, hday, -⟩ :=
    captureShowsTheElapsedTime t c addr' _ e htruns hv (htlatched.trans hlatched) htzero hhalt helapsed hdays
  exact ⟨_, hcapture, rfl, hsec, hmin, hhour, hday⟩

/-- Two answers that the environment has fixed come in their order (92 D17). -/
theorem nextDraw_le_of_monotone {s : State} (h : s.MonotoneTime) (hlen : 2 ≤ s.timeAnswers.length) :
    s.nextDraw ≤ s.afterDraw.nextDraw := by
  obtain ⟨a, b, rest, hs⟩ : ∃ a b rest, s.timeAnswers = a :: b :: rest := by
    match s.timeAnswers, hlen with
    | a :: b :: rest, _ => exact ⟨a, b, rest, rfl⟩
  rw [State.MonotoneTime, hs] at h
  have hab : a.toInt ≤ b.toInt := (List.pairwise_cons.1 h).1 b List.mem_cons_self
  simpa [State.nextDraw, State.afterDraw_timeAnswers, hs] using hab

/-- Settles O45: the captured registers stand for the whole time since the epoch, so writing one of them back moves the
epoch by the time between the two draws. -/
theorem registerWriteLosesTheTimeSinceCapture : Obligations.RegisterWriteLosesTheTimeSinceCapture := by
  intro s t u c addr addr' z value hruns hv hlatched hz hhalt hle hlt hen hlo hhi hcapture hvalue hwrite
  obtain ⟨r, htarget, hget, -⟩ := saveTargetC_clock (c := c) (addr := addr') hlo hhi
  have hdays := elapsedSince_days_lt hlt
  have helapsed := elapsedSince_of_le hle
  obtain ⟨htruns, hten, htbank, htzero, htrtc, htdraw⟩ :=
    cWrLatch_shown_next hruns hv hlatched hz hhalt hdays hcapture
  obtain ⟨-, -, hurtc, huzero, -⟩ :=
    cWrSave_rebases_next htruns hv (hten.trans hen) (htbank ▸ htarget) htzero hwrite
  have hback : u.rtc = t.rtc := by
    obtain rfl : t.rtc.get r = value := Option.some.inj ((hget t.rtc).symm.trans hvalue)
    rw [hurtc, RtcRegs.set_get]
  have hseconds : registerSeconds u.rtc = s.nextDraw - z := by
    rw [hback, htrtc, registerSeconds_derivedRegs, Nat.mod_eq_of_lt (by omega), helapsed]
  have hmoved : u.rtcZero = some (z + (s.afterDraw.nextDraw - s.nextDraw)) := by
    rw [huzero, htdraw, hseconds]
    exact congrArg some (by omega)
  refine ⟨hback, hmoved, fun hmonotone hlen z' hz' => ?_⟩
  have hdraws := nextDraw_le_of_monotone hmonotone hlen
  have := Option.some.inj (hmoved.symm.trans hz')
  omega

theorem nextDraw_congr {s t : State} (ha : t.timeAnswers = s.timeAnswers) (hd : t.drawCount = s.drawCount) :
    t.nextDraw = s.nextDraw := by
  rw [State.nextDraw, State.nextDraw, ha, hd]

/-- The derivation looks at the registers, the epoch and the draws, and at nothing else. -/
theorem calcRtcReg_congr {s t : State} (hrtc : t.rtc = s.rtc) (hzero : t.rtcZero = s.rtcZero)
    (ha : t.timeAnswers = s.timeAnswers) (hd : t.drawCount = s.drawCount) :
    (calcRtcReg t).rtc = (calcRtcReg s).rtc ∧ (calcRtcReg t).rtcZero = (calcRtcReg s).rtcZero ∧
      (calcRtcReg t).drawCount = (calcRtcReg s).drawCount := by
  have hdraw : t.nextDraw = s.nextDraw := nextDraw_congr ha hd
  have hdraw' : t.afterDraw.nextDraw = s.afterDraw.nextDraw := nextDraw_congr (by simp [ha]) (by simp [hd])
  have hhalt : haltFlag t.rtc.flags = haltFlag s.rtc.flags := by rw [hrtc]
  cases hz : s.rtcZero with
  | none =>
    rw [calcRtcReg_unset hz, calcRtcReg_unset (hzero.trans hz)]
    exact ⟨hrtc, hzero, hd⟩
  | some z =>
    cases hh : haltFlag s.rtc.flags with
    | true =>
      rw [calcRtcReg_halted hh, calcRtcReg_halted (hhalt.trans hh)]
      exact ⟨hrtc, hzero, hd⟩
    | false =>
      rcases Nat.lt_or_ge (elapsedSince z s.nextDraw / 86400) 512 with hdays | hdays
      · rw [calcRtcReg_shown hz hh hdays, calcRtcReg_shown (hzero.trans hz) (hhalt.trans hh) (hdraw ▸ hdays)]
        simp only [hdraw, hrtc, hzero, hd, and_self]
      · rw [calcRtcReg_overflow hz hh hdays, calcRtcReg_overflow (hzero.trans hz) (hhalt.trans hh) (hdraw ▸ hdays)]
        simp only [hdraw, hdraw', hrtc, hd, and_self]

section
variable {s : State} {c : Configuration} {rest : List Command}

theorem step_latch_clear (h : s.runs c) (hv : c.variant = .c)
    (hp : s.pending = .word (busWord .wrCtrl 0x6000 0x00) :: rest) :
    step s = .next { s with pending := rest, latched := false, response := .done } := by
  rw [step_word h.1 hp, hv, decode_c_busWord_latch (by decide)]
  exact exec_cWrLatch_clear (s := s.setPending rest) h hv _

theorem step_latch_capture (h : s.runs c) (hv : c.variant = .c) (hl : s.latched = false)
    (hp : s.pending = .word (busWord .wrCtrl 0x6000 0x01) :: rest) :
    step s = .next { calcRtcReg (s.setPending rest) with latched := true, response := .done } := by
  rw [step_word h.1 hp, hv, decode_c_busWord_latch (by decide)]
  exact exec_cWrLatch_capture (s := s.setPending rest) h hv hl _

end

/-- Settles O46: the first word clears `latched`, so the second captures, and the derivation does not look at
`latched`. -/
theorem latchPseudoOperationCaptures : Obligations.LatchPseudoOperationCaptures := by
  intro s c rest hruns hv hp
  refine ⟨_, _, step_latch_clear hruns hv hp, step_latch_capture hruns hv rfl rfl, rfl, ?queue, ?clock⟩
  case queue => exact congrArg State.pending (calcRtcReg_frame (State.setPending _ rest)).1
  case clock => exact calcRtcReg_congr rfl rfl rfl rfl

/-- Bit 0 of the flags is bit 8 of the day count, whatever the flags were (43 R107). -/
theorem withDayHigh_bit_zero (f : Byte) (d : Nat) : (withDayHigh f d).getLsbD 0 = decide (d / 256 % 2 = 1) := by
  have hparity : (withDayHigh f d).toNat % 2 = d / 256 % 2 := by
    rw [withDayHigh_toNat]
    omega
  rw [← hparity]
  exact Nat.testBit_zero _

/-- Settles O20: the registers but for the flags' other bits depend on the elapsed count alone. -/
theorem equalEpochsShowEqualTime : Obligations.EqualEpochsShowEqualTime := by
  intro s v c d z addr addr' hruns hv hruns' hv' hz hz' hdraw hlt hlatched hlatched' hhalt hhalt'
  have hdays := elapsedSince_days_lt hlt
  refine ⟨_, _, exec_cWrLatch_shown hruns hv hlatched hz hhalt hdays addr,
    exec_cWrLatch_shown hruns' hv' hlatched' hz' hhalt' (hdraw ▸ hdays) addr', ?_⟩
  rw [hdraw]
  refine ⟨rfl, rfl, rfl, rfl, ?_⟩
  exact (withDayHigh_bit_zero _ _).trans (withDayHigh_bit_zero _ _).symm

end Sys2Proof

/-! PROOFS. LOAD (44, section 1). The header gives a configuration or a fault, the save file gives SRAM and an epoch or a
fault, and LOAD reports the first fault or makes the device. -/

namespace Sys2Proof

open Sys2Proof.Machine

/-! ### The header -/

theorem readHeader_small {rom : ByteString} (h : rom.len < 0x149) :
    readHeader rom = .error (.imageTooSmall rom.len) := by
  rw [readHeader, if_pos h]

theorem readHeader_noSizeByte {rom : ByteString} {kind : CartridgeKind} (hlen : rom.len = 0x149)
    (hkind : typeTable (Memory.read rom.cells 0x147) = some kind) (hsize : kind.usesSizeByte = true) :
    readHeader rom = .error (.imageTooSmall rom.len) := by
  simp only [readHeader, hkind, hsize, hlen]
  rfl

theorem readHeader_ok {rom : ByteString} {kind : CartridgeKind} (hlen : 0x149 ≤ rom.len)
    (hkind : typeTable (Memory.read rom.cells 0x147) = some kind) (hsize : kind.usesSizeByte = true → 0x14A ≤ rom.len) :
    readHeader rom = .ok (configOf rom kind) := by
  have hbyte : ¬(kind.usesSizeByte = true ∧ rom.len < 0x14A) := fun ⟨huses, hlt⟩ =>
    absurd (hsize huses) (Nat.not_le.2 hlt)
  simp only [readHeader, if_neg (Nat.not_lt.2 hlen), hkind, if_neg hbyte]

/-- RAM_SIZE by the code's value (00 R11). -/
theorem ramSize_eq (code : Byte) :
    ramSize code = if code = 1 then 0x800 else if code = 2 then 0x2000 else if code = 3 then 0x8000 else 0 := by
  have h : ∀ code : Byte,
      ramSize code = if code = 1 then 0x800 else if code = 2 then 0x2000 else if code = 3 then 0x8000 else 0 := by
    decide +kernel
  exact h code

/-! ### The save file -/

section
variable {c : Configuration}

theorem restore_absent (c : Configuration) (init : Seconds) : restore c .absent init = .ok (freshMemory c init) := by
  unfold restore
  split <;> rfl

theorem restore_noBattery (h : c.battery = false) (save : SaveFile) (init : Seconds) :
    restore c save init = .ok (freshMemory c init) := by
  unfold restore
  exact if_neg (by simp [h])

theorem restore_unreadable (h : c.battery = true) (init : Seconds) :
    restore c .unreadable init = .error (.saveFileIO .read) := by
  rw [restore, if_pos h]

theorem restore_bytes (h : c.battery = true) (b : ByteString) (init : Seconds) :
    restore c (.bytes b) init = restoreBytes c b init := by
  rw [restore, if_pos h]

theorem restoreBytes_b {b : ByteString} (hv : c.variant = .b) (hlen : b.len = c.sramSize) (init : Seconds) :
    restoreBytes c b init = .ok (memoryOf b, (freshMemory c init).2) := by
  simp only [restoreBytes, hv, if_pos hlen]

theorem restoreBytes_b_malformed {b : ByteString} (hv : c.variant = .b) (hlen : b.len ≠ c.sramSize) (init : Seconds) :
    restoreBytes c b init = .error (.saveFileMalformed b.len) := by
  simp only [restoreBytes, hv, if_neg hlen]

theorem restoreBytes_c {b : ByteString} (hv : c.variant = .c) (hlen : b.len = 8 + c.sramSize) (init : Seconds) :
    restoreBytes c b init = .ok (afterEpoch (memoryOf b),
      if c.clockCapable then some (decodeEpoch (firstEight (memoryOf b))) else none) := by
  simp only [restoreBytes, hv, if_pos hlen]

theorem restoreBytes_c_malformed {b : ByteString} (hv : c.variant = .c) (hlen : b.len ≠ 8 + c.sramSize)
    (init : Seconds) : restoreBytes c b init = .error (.saveFileMalformed b.len) := by
  simp only [restoreBytes, hv, if_neg hlen]

end

/-! ### LOAD from its two parts -/

section
variable {image : ByteString} {save : SaveFile} {init : Seconds} {c : Configuration}

theorem exec_load_of_loadDevice_ok {m : Memory × Option Int} (h : loadDevice image save init = .ok (c, m)) (s : State) :
    exec (.load image save init) s = .next (s.newDevice c m) := by
  change execLoad image save init s = _
  rw [execLoad, h]

theorem loadDevice_ok {m : Memory × Option Int} (hwf : image.wf = true) (hheader : readHeader image = .ok c)
    (hrestore : restore c save init = .ok m) : loadDevice image save init = .ok (c, m) := by
  simp only [loadDevice, normalBytes_wf hwf, hheader, hrestore]

theorem loadDevice_of_restore_error {f : Fault} (hwf : image.wf = true) (hheader : readHeader image = .ok c)
    (hrestore : restore c save init = .error f) : loadDevice image save init = .error f := by
  simp only [loadDevice, normalBytes_wf hwf, hheader, hrestore]

/-- LOAD of a header and a save file that have no fault makes the device. -/
theorem exec_load_ok {m : Memory × Option Int} (hwf : image.wf = true) (hheader : readHeader image = .ok c)
    (hrestore : restore c save init = .ok m) (s : State) :
    exec (.load image save init) s = .next (s.newDevice c m) :=
  exec_load_of_loadDevice_ok (loadDevice_ok hwf hheader hrestore) s

/-- LOAD of a save file with a fault reports it. -/
theorem exec_load_restore_error {f : Fault} (hwf : image.wf = true) (hheader : readHeader image = .ok c)
    (hrestore : restore c save init = .error f) (s : State) :
    exec (.load image save init) s = .next { s with response := .fault f } :=
  exec_load_of_loadDevice_error (loadDevice_of_restore_error hwf hheader hrestore) s

end

/-- Settles O8: the reset state, field by field. -/
theorem resetValues : Obligations.ResetValues :=
  ⟨rfl, rfl, rfl, rfl, rfl, rfl, rfl, fun _ => rfl, rfl, rfl, rfl, rfl, rfl⟩

/-- Settles O10: the two results of `loadDevice` are the two ends of LOAD. -/
theorem loadMakesADeviceOrNone : Obligations.LoadMakesADeviceOrNone := by
  intro image save init s
  refine ⟨fun c m hload => ⟨_, exec_load_of_loadDevice_ok hload s, ?_⟩, fun f hload => ?_⟩
  · exact ⟨rfl, rfl, rfl, rfl, rfl, rfl, rfl, rfl, rfl, rfl, rfl, rfl, rfl, rfl, rfl, rfl, rfl⟩
  · exact exec_load_of_loadDevice_error hload s

/-- Settles O11: each row is TYPE_TABLE's, the header has no fault, and without a file memory and epoch are the fresh
ones. -/
theorem loadFollowsTheTypeTable : Obligations.LoadFollowsTheTypeTable := by
  intro image init s type variant usesSize battery clock hrow hwf htype hlen hsize
  have hkind : typeTable type = some ⟨variant, usesSize, battery, clock⟩ := by
    simp only [List.mem_cons, List.not_mem_nil, or_false, Prod.mk.injEq] at hrow
    rcases hrow with h | h | h | h | h | h | h | h | h <;> obtain ⟨rfl, rfl, rfl, rfl, rfl⟩ := h <;> rfl
  have hheader := readHeader_ok hlen (htype ▸ hkind) hsize
  refine ⟨_, _, exec_load_ok hwf hheader (restore_absent _ init) s, rfl, rfl, rfl, rfl, rfl, ?size, rfl, rfl, rfl⟩
  case size =>
    rw [← ramSize_eq]
    cases usesSize <;> rfl

/-- Settles O13: the length is the header's first check, and the size byte's presence the third. -/
theorem loadRefusesASmallImage : Obligations.LoadRefusesASmallImage := by
  intro image save init s
  refine ⟨fun hlen => ?small, fun hwf hlen htype => ?noSizeByte⟩
  case small =>
    have hheader : readHeader (normalBytes image) = .error (.imageTooSmall image.len) := readHeader_small hlen
    refine exec_load_of_loadDevice_error ?_ s
    rw [loadDevice, hheader]
  case noSizeByte =>
    obtain ⟨kind, hkind, hsize⟩ : ∃ kind, typeTable (Memory.read image.cells 0x147) = some kind ∧
        kind.usesSizeByte = true := by
      simp only [List.mem_cons, List.not_mem_nil, or_false] at htype
      rcases htype with h | h | h | h | h <;> rw [h] <;> exact ⟨_, rfl, rfl⟩
    have hheader := readHeader_noSizeByte hlen hkind hsize
    exact hlen ▸ exec_load_of_loadDevice_error (loadDevice_of_readHeader_error hwf hheader save init) s

/-- Settles O14: a battery device is of Variant B or C, and `restore` has one case for each state of the file. -/
theorem loadRestoresTheSaveFile : Obligations.LoadRestoresTheSaveFile := by
  intro image b init s c hwf hbwf hheader
  obtain ⟨-, hA, hB, -⟩ := readHeader_facts hheader
  refine ⟨fun hb hv hlen => ?fileB, fun hb hv hlen => ?fileC, fun hb hlenB hlenC => ?malformed, fun hb => ?unreadable,
    fun hb save => ?noBattery⟩
  case fileB =>
    have hrestore := (restore_bytes hb b init).trans (restoreBytes_b hv hlen init)
    refine ⟨_, exec_load_ok hwf hheader hrestore s, rfl, ?_, fun i => ?_⟩
    · exact if_neg (by simp [hB hv])
    · exact congrArg (Memory.read · i) (memoryOf_wf hbwf)
  case fileC =>
    have hrestore := (restore_bytes hb b init).trans (restoreBytes_c hv hlen init)
    rw [memoryOf_wf hbwf] at hrestore
    refine ⟨_, exec_load_ok hwf hheader hrestore s, rfl, rfl, fun i => ?_⟩
    rw [Nat.add_comm]
    exact Memory.read_afterEpoch b.cells i
  case malformed =>
    refine exec_load_restore_error hwf hheader ((restore_bytes hb b init).trans ?_) s
    cases hv : c.variant with
    | a => simp [(hA hv).1] at hb
    | b => exact restoreBytes_b_malformed hv (hlenB hv) init
    | c => exact restoreBytes_c_malformed hv (hlenC hv) init
  case unreadable => exact exec_load_restore_error hwf hheader (restore_unreadable hb init) s
  case noBattery =>
    rw [exec_load_ok hwf hheader (restore_noBattery hb save init), exec_load_ok hwf hheader (restore_absent c init)]

end Sys2Proof

/-! PROOFS. FLUSH (44, section 2) and the round trip (44, section 3). The save image of Variant C is the epoch's eight bytes
and SRAM behind them, so that cutting it after eight bytes gives both back. -/

namespace Sys2Proof

open Sys2Proof.Machine

/-! ### The epoch's eight bytes -/

theorem epochByte_toNat (e : Int) (k : Nat) :
    (epochByte e k).toNat = (e % 2 ^ 64).toNat / 2 ^ (8 * (7 - k)) % 256 := by
  rw [epochByte, BitVec.toNat_ofNat, Nat.shiftRight_eq_div_pow]

/-- Where the bytes before byte `k` spell the digits above it, byte `k` adds the next digit. -/
theorem bigEndian_epochByte (e : Int) {k : Nat} (hk : k < 8) (rest : List Byte) :
    bigEndian ((e % 2 ^ 64).toNat / 2 ^ (8 * (8 - k))) (epochByte e k :: rest) =
      bigEndian ((e % 2 ^ 64).toNat / 2 ^ (8 * (7 - k))) rest := by
  have hdigit : 8 * (8 - k) = 8 * (7 - k) + 8 := by omega
  rw [bigEndian, epochByte_toNat, hdigit, Nat.pow_add, ← Nat.div_div_eq_div_mul]
  exact congrArg (bigEndian · rest) (Nat.div_add_mod' ..)

/-- Read as one number, the bytes are the epoch modulo 2^64. -/
theorem bigEndian_encodeEpoch (e : Int) : bigEndian 0 (encodeEpoch e) = (e % 2 ^ 64).toNat := by
  have hzero : (e % 2 ^ 64).toNat / 2 ^ (8 * (8 - 0)) = 0 := by omega
  rw [← hzero, encodeEpoch, bigEndian_epochByte e (k := 0), bigEndian_epochByte e (k := 1),
    bigEndian_epochByte e (k := 2), bigEndian_epochByte e (k := 3), bigEndian_epochByte e (k := 4),
    bigEndian_epochByte e (k := 5), bigEndian_epochByte e (k := 6), bigEndian_epochByte e (k := 7)]
  · exact Nat.div_one _
  all_goals decide

theorem ofInt_eq_ofNat (e : Int) : BitVec.ofInt 64 e = BitVec.ofNat 64 (e % 2 ^ 64).toNat := by
  apply BitVec.eq_of_toNat_eq
  rw [BitVec.toNat_ofInt, BitVec.toNat_ofNat, Nat.mod_eq_of_lt (by omega)]
  rfl

theorem decodeEpoch_encodeEpoch {e : Int} (hlo : -2 ^ 63 ≤ e) (hhi : e ≤ 2 ^ 63 - 1) :
    decodeEpoch (encodeEpoch e) = e := by
  rw [decodeEpoch, bigEndian_encodeEpoch, ← ofInt_eq_ofNat]
  exact BitVec.toInt_ofInt_eq_self (by decide) hlo (Int.lt_of_le_sub_one hhi)

/-- Settles O21: eight base-256 digits spell the epoch modulo 2^64, and the range is that of the signed reading. -/
theorem epochBytesRoundTrip : Obligations.EpochBytesRoundTrip :=
  fun _ hlo hhi => ⟨rfl, decodeEpoch_encodeEpoch hlo hhi⟩

/-! ### The save image of Variant C -/

/-- The epoch's eight bytes, and `n` bytes of SRAM behind them (44 R138): what `saveImageOf` gives in Variant C. -/
def epochImage (n : Nat) (sram : Memory) (e : Int) : ByteString where
  len := 8 + n
  cells := Memory.writeBytes (behindEpoch sram) 0 (encodeEpoch e)

section
variable {sram : Memory} {n : Nat} {e : Int}

theorem epochImage_wf (hwf : Memory.wf sram = true) (hlt : Memory.below n sram = true) (e : Int) :
    (epochImage n sram e).wf = true :=
  Bool.and_eq_true_iff.2 ⟨Memory.wf_writeBytes (Memory.wf_behindEpoch hwf) 0 _,
    Memory.below_writeBytes (Memory.below_behindEpoch hlt) 0 _ (Nat.le_add_right 8 n)⟩

theorem epochImage_read_epoch (hwf : Memory.wf sram = true) {k : Nat} (hk : k < 8) :
    Memory.read (epochImage n sram e).cells k = epochByte e k := by
  have hlen : (encodeEpoch e).length = 8 := rfl
  rw [epochImage, Memory.read_writeBytes (Memory.wf_behindEpoch hwf), if_pos (by omega)]
  match k, hk with
  | 0, _ | 1, _ | 2, _ | 3, _ | 4, _ | 5, _ | 6, _ | 7, _ => rfl

theorem epochImage_read_sram (hwf : Memory.wf sram = true) (i : Nat) :
    Memory.read (epochImage n sram e).cells (i + 8) = Memory.read sram i := by
  have hlen : (encodeEpoch e).length = 8 := rfl
  rw [epochImage, Memory.read_writeBytes (Memory.wf_behindEpoch hwf), if_neg (by omega), Memory.read_behindEpoch]

/-- The first eight bytes are the epoch's. -/
theorem firstEight_epochImage (hwf : Memory.wf sram = true) :
    firstEight (epochImage n sram e).cells = encodeEpoch e := by
  have hread : ∀ k : Nat, k < 8 → Memory.read (epochImage n sram e).cells k = epochByte e k :=
    fun _ hk => epochImage_read_epoch hwf hk
  simp [firstEight, encodeEpoch, hread]

/-- What follows them is SRAM. -/
theorem afterEpoch_epochImage (hwf : Memory.wf sram = true) :
    afterEpoch (epochImage n sram e).cells = sram := by
  have himage : Memory.wf (epochImage n sram e).cells = true := Memory.wf_writeBytes (Memory.wf_behindEpoch hwf) 0 _
  refine Memory.ext_read (Memory.wf_afterEpoch himage) hwf fun i => ?_
  rw [Memory.read_afterEpoch, epochImage_read_sram hwf]

end

/-! ### FLUSH from the save image to its end -/

section
variable {s : State} {c : Configuration}

theorem epochFits_iff (e : Int) : epochFits e = true ↔ -2 ^ 63 ≤ e ∧ e ≤ 2 ^ 63 - 1 := by
  simp [epochFits]

theorem saveImageOf_c (hv : c.variant = .c) (hfits : epochFits (savedEpoch c s.rtcZero) = true) :
    saveImageOf c s = .ok (epochImage c.sramSize s.sram (savedEpoch c s.rtcZero)) := by
  simp only [saveImageOf, hv, hfits, if_true]
  rfl

theorem saveImageOf_c_unfit (hv : c.variant = .c) (hfits : epochFits (savedEpoch c s.rtcZero) = false) :
    saveImageOf c s = .error (.epochOutOfRange (savedEpoch c s.rtcZero)) := by
  simp only [saveImageOf, hv, hfits]
  rfl

theorem savedEpoch_clockless (h : c.clockCapable = false) (z : Option Int) : savedEpoch c z = 0 := by
  simp [savedEpoch, h]

theorem savedEpoch_clocked (h : c.clockCapable = true) (e : Int) : savedEpoch c (some e) = e := by
  simp [savedEpoch, h]

theorem firstFault_eq (recorded : Option Fault) (f : Fault) : firstFault recorded f = some (recorded.getD f) := by
  cases recorded <;> rfl

theorem endFaulted_eq (f : Fault) (s : State) :
    endFaulted f s =
      { s with status := .flushed, faultRecord := some (s.faultRecord.getD f), response := .fault f } := by
  rw [← firstFault_eq]
  rfl

theorem teardown_unfit {f : Fault} (hb : c.battery = true) (h : saveImageOf c s = .error f) (answer : HostWrite) :
    teardown c answer s = endFaulted f s := by
  rw [teardown, if_pos hb, h]

theorem teardown_failed {image : ByteString} (hb : c.battery = true) (h : saveImageOf c s = .ok image) :
    teardown c .failed s = endFaulted (.saveFileIO .write) s := by
  rw [teardown, if_pos hb, h]

theorem exec_flush_flushed (hc : s.config = some c) (hs : s.status = .flushed) (answer : HostWrite) :
    exec (.flush answer) s = .refused .deviceFlushed := by
  change execFlush answer s = _
  rw [execFlush, hc]
  simp only [hs]

end

/-- Settles O16: the bytes of `epochImage`, read at both sides of offset 8. -/
theorem flushWritesEpochThenSram : Obligations.FlushWritesEpochThenSram := by
  intro s c e hsound hc hs hb hv hclocked hclockless hlo hhi
  obtain ⟨hwf, hlt⟩ := hsound
  rw [sramLen_of_config hc] at hlt
  have hsaved : savedEpoch c s.rtcZero = e := by
    cases hk : c.clockCapable with
    | true => rw [hclocked hk, savedEpoch_clocked hk]
    | false => rw [hclockless hk, savedEpoch_clockless hk]
  have himage := saveImageOf_c (s := s) hv (hsaved.symm ▸ (epochFits_iff e).2 ⟨hlo, hhi⟩)
  have hflush := exec_flush .stored hc hs
  rw [teardown_stored hb himage, hsaved] at hflush
  refine ⟨_, _, hflush, rfl, rfl, rfl, epochImage_wf hwf hlt e, rfl, fun k hk => ?epoch, fun i => ?sram⟩
  case epoch => rw [epochImage_read_epoch hwf hk, epochByte_toNat]
  case sram => rw [Nat.add_comm, epochImage_read_sram hwf]

/-- Settles O17: the epoch's range is checked before the host's write, and either fault ends the device. -/
theorem flushFaultsEndTheDevice : Obligations.FlushFaultsEndTheDevice := by
  intro s c answer hc hs hb
  refine ⟨fun e hv hk hz hout => ?range, fun hfits => ?write⟩
  case range =>
    have hsaved : savedEpoch c s.rtcZero = e := by rw [hz, savedEpoch_clocked hk]
    have hunfit : epochFits e = false := by
      rw [← Bool.not_eq_true, epochFits_iff]
      omega
    have himage := saveImageOf_c_unfit (s := s) hv (hsaved.symm ▸ hunfit)
    rw [exec_flush answer hc hs, teardown_unfit hb himage, endFaulted_eq, hsaved]
  case write =>
    obtain ⟨image, himage⟩ : ∃ image, saveImageOf c s = .ok image := by
      rcases hfits with hv | ⟨hv, hk⟩ | ⟨hv, e, hz, hlo, hhi⟩
      · exact ⟨_, saveImageOf_b hv⟩
      · exact ⟨_, saveImageOf_c hv (by rw [savedEpoch_clockless hk]; rfl)⟩
      · refine ⟨_, saveImageOf_c hv ?_⟩
        cases hk : c.clockCapable with
        | true => rw [hz, savedEpoch_clocked hk, epochFits_iff]; exact ⟨hlo, hhi⟩
        | false => rw [savedEpoch_clockless hk]; rfl
    rw [exec_flush .failed hc hs, teardown_failed hb himage, endFaulted_eq]

/-- Settles O18: the frame of teardown, and the gate of a Flushed device. -/
theorem flushCompletesWithItsFrame : Obligations.FlushCompletesWithItsFrame := by
  intro s answer
  refine ⟨fun c hc hs => ⟨_, exec_flush answer hc hs⟩, fun t hflush => ?frame⟩
  obtain ⟨c, hc, -, rfl⟩ := exec_flush_next hflush
  obtain ⟨record, image, r, ht, hfirst, hnone⟩ := teardown_frame c answer s
  have hconfig : (teardown c answer s).config = some c := (teardown_keeps c answer s).1.trans hc
  have hflushed : (teardown c answer s).status = .flushed := by rw [ht]
  have hrefused : ∀ i : Instr, encode i ≠ none ∨ (∃ again, i = .flush again) →
      exec i (teardown c answer s) = .refused .deviceFlushed := by
    rintro i (hi | ⟨again, rfl⟩)
    · exact exec_bus_flushed hconfig hflushed i hi
    · exact exec_flush_flushed hconfig hflushed again
  rw [ht] at hrefused ⊢
  refine ⟨rfl, rfl, rfl, rfl, rfl, rfl, rfl, rfl, rfl, fun _ => rfl, rfl, rfl, rfl, rfl, hfirst, ?noBattery, hrefused⟩
  case noBattery =>
    intro d hd hb
    obtain rfl : c = d := Option.some.inj (hc.symm.trans hd)
    exact hnone hb

/-! ### The round trip -/

/-- FLUSH of a battery device that reports no fault hands over what `saveImageOf` gives. -/
theorem saveImageOf_of_flush {s t : State} {c : Configuration} {image : ByteString} (hc : s.config = some c)
    (hb : c.battery = true) (hflush : exec (.flush .stored) s = .next t) (himage : t.saveImage = some image)
    (hdone : t.response = .done) : saveImageOf c s = .ok image := by
  obtain ⟨d, hd, -, rfl⟩ := exec_flush_next hflush
  obtain rfl : c = d := Option.some.inj (hc.symm.trans hd)
  cases hs : saveImageOf c s with
  | error f =>
    rw [teardown_unfit hb hs, endFaulted_eq] at hdone
    cases hdone
  | ok image' =>
    rw [teardown_stored hb hs] at himage
    cases himage
    rfl

/-- What `saveImageOf` gives, LOAD's restore takes back: the same SRAM and the same epoch. -/
theorem restore_saveImageOf {s : State} {c : Configuration} {image : ByteString} (hsound : s.deviceSound)
    (hc : s.config = some c) (hb : c.battery = true) (himage : saveImageOf c s = .ok image) (init : Seconds) :
    restore c (.bytes image) init = .ok (s.sram, s.rtcZero) := by
  obtain ⟨hconfig, ⟨hwf, hlt⟩, -, -, hepoch, -, -⟩ := hsound
  obtain ⟨-, hA, hB, -⟩ := readHeader_facts (hconfig c hc).1
  rw [sramLen_of_config hc] at hlt
  rw [State.epochSound, clocked_of_config hc] at hepoch
  rw [restore_bytes hb]
  have hunset : c.clockCapable = false → s.rtcZero = none := fun hk => by
    rwa [hk, Option.isSome_eq_false_iff, Option.isNone_iff_eq_none] at hepoch
  cases hv : c.variant with
  | a => simp [(hA hv).1] at hb
  | b =>
    rw [saveImageOf_b hv] at himage
    cases himage
    have hfile : ByteString.wf { len := c.sramSize, cells := s.sram } = true := Bool.and_eq_true_iff.2 ⟨hwf, hlt⟩
    rw [restoreBytes_b hv rfl, memoryOf_wf hfile, hunset (hB hv), freshMemory, if_neg (by simp [hB hv])]
  | c =>
    cases hfits : epochFits (savedEpoch c s.rtcZero) with
    | false =>
      rw [saveImageOf_c_unfit hv hfits] at himage
      cases himage
    | true =>
      obtain ⟨hlo, hhi⟩ := (epochFits_iff _).1 hfits
      rw [saveImageOf_c hv hfits] at himage
      cases himage
      rw [restoreBytes_c hv rfl, memoryOf_wf (epochImage_wf hwf hlt _), afterEpoch_epochImage hwf,
        firstEight_epochImage hwf, decodeEpoch_encodeEpoch hlo hhi]
      cases hk : c.clockCapable with
      | false => rw [hunset hk]; rfl
      | true =>
        obtain ⟨z, hz⟩ := Option.isSome_iff_exists.1 (hepoch.trans hk)
        rw [hz, savedEpoch_clocked hk]
        rfl

/-- Settles O19: the image is `saveImageOf`'s, and restoring it gives SRAM and the epoch back. -/
theorem flushThenLoadRestores : Obligations.FlushThenLoadRestores := by
  intro s t u c image init hinv hc hb hflush himage hdone
  obtain ⟨hheader, hrom⟩ := hinv.1.1 c hc
  have hrestore := restore_saveImageOf hinv.1 hc hb (saveImageOf_of_flush hc hb hflush himage hdone) init
  exact ⟨_, exec_load_ok hrom hheader hrestore u, hc.symm, rfl, rfl, rfl, rfl, rfl, rfl, rfl, rfl, rfl⟩

end Sys2Proof

/-! PROOFS. The frames of the bus transactions (20, section 3; 41 and 42, sections 3 and 4). A read answers or faults, a
control write writes its own register, and a save write stores one byte or one clock register. -/

namespace Sys2Proof.Machine

/-! ### Reads -/

/-- The transaction answers, or enters a fault, and does nothing else. -/
def AnswersOrFaults (s t : State) : Prop := (∃ r, t = { s with response := r }) ∨ ∃ f, t = s.faultedWith f

section
variable {s t : State} {c : Configuration}

theorem answersOrFaults_answer (s : State) (r : Response) : AnswersOrFaults s { s with response := r } :=
  .inl ⟨r, rfl⟩

theorem answersOrFaults_fault (s : State) (f : Fault) : AnswersOrFaults s (s.faultedWith f) := .inr ⟨f, rfl⟩

theorem readRom_answersOrFaults {i : Nat} (h : readRom c i s = .next t) : AnswersOrFaults s t := by
  rcases readRom_next h with ⟨-, rfl⟩ | ⟨-, rfl⟩
  · exact answersOrFaults_answer ..
  · exact answersOrFaults_fault ..

theorem readSram_answersOrFaults {i : Nat} (h : readSram c i s = .next t) : AnswersOrFaults s t := by
  rcases readSram_next h with ⟨-, rfl⟩ | ⟨-, rfl⟩
  · exact answersOrFaults_answer ..
  · exact answersOrFaults_fault ..

theorem readTarget_answersOrFaults {g : SaveTarget} (h : readTarget c g s = .next t) : AnswersOrFaults s t := by
  cases g with
  | sramAt i => exact readSram_answersOrFaults h
  | absent | rtcReg =>
    obtain rfl := Host.Outcome.next.inj h
    exact answersOrFaults_answer ..
  | unmapped b =>
    obtain rfl := Host.Outcome.next.inj h
    exact answersOrFaults_fault ..

/-- All that a save write of Variant C can do where it is enabled. -/
theorem writeTarget_next {g : SaveTarget} {v : Byte} (h : writeTarget c g v s = .next t) :
    AnswersOrFaults s t ∨
    (∃ i, g = .sramAt i ∧ t = { s with sram := Memory.write s.sram i v, response := .done }) ∨
    (∃ r, g = .rtcReg r ∧ t = { calcRtcZero (s.setRtc (s.rtc.set r v)) with response := .done }) := by
  cases g with
  | absent =>
    obtain rfl := Host.Outcome.next.inj h
    exact .inl (answersOrFaults_answer ..)
  | sramAt i =>
    rcases writeSram_next h with ⟨-, rfl⟩ | ⟨-, rfl⟩
    · exact .inr (.inl ⟨i, rfl, rfl⟩)
    · exact .inl (answersOrFaults_fault ..)
  | rtcReg r =>
    obtain rfl := Host.Outcome.next.inj h
    exact .inr (.inr ⟨r, rfl, rfl⟩)
  | unmapped b =>
    obtain rfl := Host.Outcome.next.inj h
    exact .inl (answersOrFaults_fault ..)

/-- All that a save write of Variant B can do. -/
theorem exec_bWrSave_cases {a : Addr} {v : Byte} (h : exec (.bWrSave a v) s = .next t) :
    ∃ c, s.runs c ∧ (AnswersOrFaults s t ∨
      c.sramSize ≠ 0 ∧ s.ramEnabled = true ∧
        t = { s with sram := Memory.write s.sram (saveIndexB s a) v, response := .done }) := by
  obtain ⟨c, hr, -, ⟨-, rfl⟩ | ⟨hsize, hen, hk⟩⟩ := exec_bWrSave_next h
  · exact ⟨c, hr, .inl (answersOrFaults_answer ..)⟩
  · rcases writeSram_next hk with ⟨-, rfl⟩ | ⟨-, rfl⟩
    · exact ⟨c, hr, .inr ⟨hsize, hen, rfl⟩⟩
    · exact ⟨c, hr, .inl (answersOrFaults_fault ..)⟩

/-- All that a save write of Variant C can do. -/
theorem exec_cWrSave_cases {a : Addr} {v : Byte} (h : exec (.cWrSave a v) s = .next t) :
    ∃ c, s.runs c ∧ (AnswersOrFaults s t ∨
      (s.ramEnabled = true ∧ ∃ i, saveTargetC c s.ramBank a = .sramAt i ∧
        t = { s with sram := Memory.write s.sram i v, response := .done }) ∨
      (s.ramEnabled = true ∧ ∃ r, saveTargetC c s.ramBank a = .rtcReg r ∧
        t = { calcRtcZero (s.setRtc (s.rtc.set r v)) with response := .done })) := by
  obtain ⟨c, hr, -, ⟨-, rfl⟩ | ⟨hen, hk⟩⟩ := exec_cWrSave_next h
  · exact ⟨c, hr, .inl (answersOrFaults_answer ..)⟩
  · rcases writeTarget_next hk with heffect | hstore | hclock
    · exact ⟨c, hr, .inl heffect⟩
    · exact ⟨c, hr, .inr (.inl ⟨hen, hstore⟩)⟩
    · exact ⟨c, hr, .inr (.inr ⟨hen, hclock⟩)⟩

theorem AnswersOrFaults.frame (h : AnswersOrFaults s t) :
    t = { s with status := t.status, faultRecord := t.faultRecord, response := t.response } := by
  rcases h with ⟨r, rfl⟩ | ⟨f, rfl⟩ <;> rfl

theorem AnswersOrFaults.status (h : AnswersOrFaults s t) :
    t.status = s.status ∧ t.faultRecord = s.faultRecord ∨
      ∃ f, t.status = .faulted f ∧ t.faultRecord = some f ∧ t.response = .fault f := by
  rcases h with ⟨r, rfl⟩ | ⟨f, rfl⟩
  · exact .inl ⟨rfl, rfl⟩
  · exact .inr ⟨f, rfl, rfl, rfl⟩

end

end Sys2Proof.Machine

namespace Sys2Proof

open Sys2Proof.Machine

/-- The forms of O50 answer or fault. -/
theorem exec_read_answersOrFaults {s t : State} {addr : Addr} {value : Byte} {i : Instr}
    (hi : i ∈ [.aRdRom addr, .aRdSave addr, .aWrCtrl addr value, .aWrSave addr value, .bRdRom0 addr, .bRdRomX addr,
      .bRdSave addr, .cRdRom0 addr, .cRdRomX addr, .cRdSave addr, .xRdProgOow addr, .xWrCtrlUnmapped addr value])
    (h : exec i s = .next t) : AnswersOrFaults s t := by
  cases i with
  | aRdRom | bRdRom0 | bRdRomX | cRdRom0 | cRdRomX =>
    obtain ⟨c, -, -, hk⟩ := onVariant_next h
    exact readRom_answersOrFaults hk
  | aRdSave | aWrCtrl | aWrSave =>
    obtain ⟨c, -, -, hk⟩ := onVariant_next h
    obtain rfl := Host.Outcome.next.inj hk
    exact answersOrFaults_answer ..
  | bRdSave =>
    obtain ⟨c, -, -, ⟨-, rfl⟩ | ⟨-, -, hk⟩⟩ := exec_bRdSave_next h
    · exact answersOrFaults_answer ..
    · exact readSram_answersOrFaults hk
  | cRdSave =>
    obtain ⟨c, -, -, ⟨-, rfl⟩ | ⟨-, hk⟩⟩ := exec_cRdSave_next h
    · exact answersOrFaults_answer ..
    · exact readTarget_answersOrFaults hk
  | xRdProgOow =>
    obtain ⟨c, -, rfl⟩ := exec_xRdProgOow_next h
    exact answersOrFaults_fault ..
  | xWrCtrlUnmapped =>
    obtain ⟨c, -, rfl⟩ := exec_xWrCtrlUnmapped_next h
    exact answersOrFaults_fault ..
  | _ => simp at hi

/-- Settles O50: each of the forms answers or faults. -/
theorem readsAndIllegalFormsFrame : Obligations.ReadsAndIllegalFormsFrame := by
  intro s t addr value i hi h
  have heffect := exec_read_answersOrFaults hi h
  refine ⟨heffect.frame, fun a => ?_, heffect.status⟩
  rw [heffect.frame]

/-- Settles O51: each form writes the register of its rule; a capture writes what the derivation can change. -/
theorem controlWritesFrame : Obligations.ControlWritesFrame := by
  intro s t addr value
  refine ⟨?ramEn, ?romBank, ?bankHi, ?mode, ?ramBank, ?latch⟩
  case ramEn =>
    rintro (h | h)
    · obtain ⟨c, -, -, rfl⟩ := exec_bWrRamEn_next h
      exact ⟨rfl, fun _ => rfl⟩
    · obtain ⟨c, -, -, rfl⟩ := exec_cWrRamEn_next h
      exact ⟨rfl, fun _ => rfl⟩
  case romBank =>
    rintro (h | h)
    · obtain ⟨c, -, -, rfl⟩ := exec_bWrRomLo_next h
      exact ⟨rfl, fun _ => rfl⟩
    · obtain ⟨c, -, -, rfl⟩ := exec_cWrRomB_next h
      exact ⟨rfl, fun _ => rfl⟩
  case bankHi =>
    intro h
    obtain ⟨c, -, -, ⟨-, rfl⟩ | ⟨-, rfl⟩⟩ := exec_bWrBankHi_next h
    · exact ⟨rfl, .inl rfl, rfl, fun _ => rfl⟩
    · exact ⟨rfl, .inr rfl, romBankHigh_low s.romBank value, fun _ => rfl⟩
  case mode =>
    intro h
    obtain ⟨c, -, -, rfl⟩ := exec_bWrMode_next h
    exact ⟨rfl, fun _ => rfl⟩
  case ramBank =>
    intro h
    obtain ⟨c, -, -, rfl⟩ := exec_cWrRamB_next h
    exact ⟨rfl, fun _ => rfl⟩
  case latch =>
    intro h
    obtain ⟨c, -, -, ⟨-, rfl⟩ | ⟨-, -, rfl⟩ | ⟨-, -, rfl⟩⟩ := exec_cWrLatch_next h
    · exact ⟨rfl, rfl, fun _ => rfl⟩
    · obtain ⟨hframe, hset, -, -⟩ := calcRtcReg_frame s
      refine ⟨?_, hset, fun a => ?_⟩ <;> rw [hframe]
    · exact ⟨rfl, rfl, fun _ => rfl⟩

/-- Settles O52: a save write answers or faults, stores one byte at its own index, or writes one clock register and
rebases the epoch. -/
theorem saveWritesFrame : Obligations.SaveWritesFrame := by
  intro s t c addr value hc
  refine ⟨fun h => ?b, fun h => ?c⟩
  case b =>
    obtain ⟨d, ⟨hd, hrunning⟩, hcases⟩ := exec_bWrSave_cases h
    obtain rfl : c = d := Option.some.inj (hc.symm.trans hd)
    rcases hcases with heffect | ⟨hsize, hen, rfl⟩
    · rcases heffect with ⟨r, rfl⟩ | ⟨f, rfl⟩ <;> exact ⟨rfl, fun _ _ => rfl, fun _ _ => rfl⟩
    · refine ⟨rfl, fun a ha => Memory.read_write_other ha, fun hnone => ?_⟩
      simp [hsize, hen, hrunning] at hnone
  case c =>
    obtain ⟨d, ⟨hd, hrunning⟩, hcases⟩ := exec_cWrSave_cases h
    obtain rfl : c = d := Option.some.inj (hc.symm.trans hd)
    rcases hcases with heffect | ⟨hen, i, hi, rfl⟩ | ⟨hen, r, hr, rfl⟩
    · rcases heffect with ⟨r, rfl⟩ | ⟨f, rfl⟩ <;>
        exact ⟨rfl, fun _ _ _ _ => rfl, fun _ _ => rfl, fun _ _ _ _ => rfl, fun _ => ⟨rfl, rfl, rfl, rfl⟩⟩
    · refine ⟨rfl, fun i' hi' a ha => ?_, fun hnone => ?_, fun _ _ _ _ => rfl, fun _ => ⟨rfl, rfl, rfl, rfl⟩⟩
      · obtain rfl : i = i' := SaveTarget.sramAt.inj (hi.symm.trans hi')
        exact Memory.read_write_other ha
      · simp [hen, hi, hrunning] at hnone
    · obtain ⟨z, answers, n, hframe, -⟩ := calcRtcZero_frame (s.setRtc (s.rtc.set r value))
      rw [hframe]
      refine ⟨rfl, fun _ _ _ _ => rfl, fun _ _ => rfl, fun r' hr' q hq => ?_, fun hnone => ?_⟩
      · obtain rfl : r = r' := SaveTarget.rtcReg.inj (hr.symm.trans hr')
        exact RtcRegs.get_set_other s.rtc value hq
      · simp [hen, hr] at hnone

end Sys2Proof

/-! PROOFS. The rules over every step: the clock moves only by a capture or a register write (43, section 6), and devices
move only by LOAD and by a turn (60, section 5; 70, section 1). -/

namespace Sys2Proof.Machine

/-! ### What keeps the clock -/

/-- The registers, the epoch and the draws are as they were. -/
def ClockKept (s t : State) : Prop :=
  t.rtc = s.rtc ∧ t.rtcZero = s.rtcZero ∧ t.timeAnswers = s.timeAnswers ∧ t.drawCount = s.drawCount

theorem clockKept_rfl (s : State) : ClockKept s s := ⟨rfl, rfl, rfl, rfl⟩

section
variable {s t : State}

theorem AnswersOrFaults.clockKept (h : AnswersOrFaults s t) : ClockKept s t := by
  rcases h with ⟨r, rfl⟩ | ⟨f, rfl⟩
  · exact clockKept_rfl s
  · exact clockKept_rfl s

/-- Only a capture and a write of a clock register touch the clock (43, section 6). -/
theorem exec_bus_clock_cases {i : Instr} (hi : encode i ≠ none) (h : exec i s = .next t) :
    ClockKept s t ∨
    (∃ a, i = .cWrLatch a 0x01 ∧ s.latched = false ∧ t = { calcRtcReg s with latched := true, response := .done }) ∨
    (∃ c a v r, i = .cWrSave a v ∧ s.ramEnabled = true ∧ saveTargetC c s.ramBank a = .rtcReg r ∧
      t = { calcRtcZero (s.setRtc (s.rtc.set r v)) with response := .done }) := by
  cases i with
  | cWrLatch a v =>
    obtain ⟨c, -, -, ⟨-, rfl⟩ | ⟨rfl, hl, rfl⟩ | ⟨-, -, rfl⟩⟩ := exec_cWrLatch_next h
    · exact .inl (clockKept_rfl s)
    · exact .inr (.inl ⟨a, rfl, hl, rfl⟩)
    · exact .inl (clockKept_rfl s)
  | cWrSave a v =>
    obtain ⟨c, -, heffect | ⟨-, i, -, rfl⟩ | ⟨hen, r, hr, rfl⟩⟩ := exec_cWrSave_cases h
    · exact .inl heffect.clockKept
    · exact .inl (clockKept_rfl s)
    · exact .inr (.inr ⟨c, a, v, r, rfl, hen, hr, rfl⟩)
  | bWrSave a v =>
    obtain ⟨c, -, heffect | ⟨-, -, rfl⟩⟩ := exec_bWrSave_cases h
    · exact .inl heffect.clockKept
    · exact .inl (clockKept_rfl s)
  | bWrBankHi a v =>
    obtain ⟨c, -, -, ⟨-, rfl⟩ | ⟨-, rfl⟩⟩ := exec_bWrBankHi_next h <;> exact .inl (clockKept_rfl s)
  | bWrRamEn a v | bWrRomLo a v | bWrMode a v | cWrRamEn a v | cWrRomB a v | cWrRamB a v =>
    obtain ⟨c, -, -, hk⟩ := onVariant_next h
    obtain rfl := Host.Outcome.next.inj hk
    exact .inl (clockKept_rfl s)
  | aWrCtrl a v | aWrSave a v | xWrCtrlUnmapped a v =>
    exact .inl (exec_read_answersOrFaults (addr := a) (value := v) (by simp) h).clockKept
  | aRdRom a | aRdSave a | bRdRom0 a | bRdRomX a | bRdSave a | cRdRom0 a | cRdRomX a | cRdSave a | xRdProgOow a =>
    exact .inl (exec_read_answersOrFaults (addr := a) (value := 0) (by simp) h).clockKept
  | load | flush => exact absurd rfl hi

/-- A selection that shows a clock register is one of 8 to 12. -/
theorem rtcSelect_of_saveTargetC {b : Byte} {a : Addr} {r : RtcReg} (h : saveTargetC c b a = .rtcReg r) :
    rtcSelect b = some r := by
  unfold saveTargetC at h
  split at h
  · split at h <;> cases h
  · split at h
    · cases h
      assumption
    · cases h

theorem bounds_of_rtcSelect {b : Byte} {r : RtcReg} (h : rtcSelect b = some r) : 8 ≤ b.toNat ∧ b.toNat ≤ 12 := by
  have hnone : ¬(b.toNat < 8 ∨ 12 < b.toNat) := by
    rw [← rtcSelect_none, h]
    simp
  omega

theorem eq_of_rtcSelect_flags {b : Byte} (h : rtcSelect b = some .flags) : b = 0x0C := by
  have hflags : ∀ b : Byte, rtcSelect b = some .flags → b = 0x0C := by decide +kernel
  exact hflags b h

/-- No derivation clears CARRY. -/
theorem calcRtcReg_keeps_carry (h : s.rtc.flags.getLsbD 7 = true) : (calcRtcReg s).rtc.flags.getLsbD 7 = true := by
  cases hz : s.rtcZero with
  | none => rwa [calcRtcReg_unset hz]
  | some z =>
    cases hh : haltFlag s.rtc.flags with
    | true => rwa [calcRtcReg_halted hh]
    | false =>
      rcases Nat.lt_or_ge (elapsedSince z s.nextDraw / 86400) 512 with hd | hd
      · rw [calcRtcReg_shown hz hh hd]
        exact (withDayHigh_bit _ _ (by decide)).trans h
      · rw [calcRtcReg_overflow hz hh hd]
        exact (withCarry_facts _).2.1

theorem calcRtcZero_rtc (s : State) : (calcRtcZero s).rtc = s.rtc := by
  obtain ⟨z, answers, n, h, -⟩ := calcRtcZero_frame s
  rw [h]

end

theorem RtcRegs.set_flags_other (g : RtcRegs) (v : Byte) {r : RtcReg} (h : r ≠ .flags) : (g.set r v).flags = g.flags :=
  RtcRegs.get_set_other g v (r' := .flags) h.symm

/-- All that a step can do to the registers at hand: nothing, LOAD's, those of the device turned to, a capture, or the
write of one register. -/
theorem step_rtc_cases {s t : State} (h : step s = .next t) :
    t.rtc = s.rtc ∨
    (∃ image save init rest, s.pending = .load image save init :: rest) ∨
    (∃ n rest d, s.pending = .select n :: rest ∧ s.others[n]? = some d ∧ t.rtc = d.rtc) ∨
    ∃ c w rest, s.runs c ∧ c.variant = .c ∧ s.pending = .word w :: rest ∧
      ((wordOp w = .wrCtrl ∧ ctrlWindow (wordAddr w) = 3 ∧ wordData w = 0x01 ∧ s.latched = false ∧
          t.rtc = (calcRtcReg s).rtc) ∨
        (wordOp w = .wrSave ∧ s.ramEnabled = true ∧ ∃ r, rtcSelect s.ramBank = some r ∧
          t.rtc = s.rtc.set r (wordData w))) := by
  rcases step_next h with ⟨-, rfl⟩ | ⟨w, rest, c, hp, hruns, hexec, -⟩ | ⟨image, save, init, rest, hp, -⟩ |
    ⟨answer, rest, -, hflush⟩ | ⟨n, rest, d, hp, hd, rfl⟩
  · exact .inl rfl
  · rcases exec_bus_clock_cases (encode_decode_ne_none _ _) hexec with hkept | ⟨a, hi, hl, rfl⟩ |
      ⟨c', a, v, r, hi, hen, hr, rfl⟩
    · exact .inl hkept.1
    · obtain ⟨hv, hop, hwindow, -, hdata⟩ := decode_eq_cWrLatch hi
      have hsame : (calcRtcReg (s.setPending rest)).rtc = (calcRtcReg s).rtc :=
        (calcRtcReg_congr (s := s) (t := s.setPending rest) rfl rfl rfl rfl).1
      exact .inr (.inr (.inr ⟨c, w, rest, hruns, hv, hp, .inl ⟨hop, hwindow, hdata, hl, hsame⟩⟩))
    · obtain ⟨hv, hop, -, rfl⟩ := decode_eq_cWrSave hi
      exact .inr (.inr (.inr ⟨c, w, rest, hruns, hv, hp,
        .inr ⟨hop, hen, r, rtcSelect_of_saveTargetC hr, calcRtcZero_rtc _⟩⟩))
  · exact .inr (.inl ⟨image, save, init, rest, hp⟩)
  · obtain ⟨c, -, -, rfl⟩ := exec_flush_next hflush
    obtain ⟨record, saved, r, ht, -, -⟩ := teardown_frame c answer (s.setPending rest)
    rw [ht]
    exact .inl rfl
  · exact .inr (.inr (.inl ⟨n, rest, d, hp, hd, rfl⟩))

/-! ### Operations that draw nothing -/

/-- The operations without a word are the host's. -/
theorem host_of_encode_none {i : Instr} (h : encode i = none) :
    (∃ image save init, i = .load image save init) ∨ ∃ answer, i = .flush answer := by
  cases i with
  | load image save init => exact .inl ⟨image, save, init, rfl⟩
  | flush answer => exact .inr ⟨answer, rfl⟩
  | _ => cases h

/-- The host's operations draw nothing. -/
theorem exec_host_draws {i : Instr} {s t : State} (hi : encode i = none) (h : exec i s = .next t) :
    t.drawCount = s.drawCount ∧ t.timeAnswers = s.timeAnswers := by
  rcases host_of_encode_none hi with ⟨image, save, init, rfl⟩ | ⟨answer, rfl⟩
  · rcases exec_load_next h with ⟨f, -, rfl⟩ | ⟨c, m, -, rfl⟩ <;> exact ⟨rfl, rfl⟩
  · obtain ⟨c, -, -, rfl⟩ := exec_flush_next h
    obtain ⟨record, image, r, ht, -, -⟩ := teardown_frame c answer s
    rw [ht]
    exact ⟨rfl, rfl⟩

/-! ### Devices -/

theorem State.configurations_eq (s : State) : s.configurations = s.config.toList ++ s.others.map Device.config := by
  rw [State.configurations, State.devices, List.map_append, State.asDevice]
  cases s.config <;> rfl

/-- A step leaves the devices as they stand, or LOAD puts a new one before them, or a turn reorders them. -/
theorem step_devices {s t : State} (h : step s = .next t) :
    (t.config = s.config ∧ t.others = s.others) ∨
    (∃ image save init rest c m, s.pending = .load image save init :: rest ∧ t = (s.setPending rest).newDevice c m) ∨
    (∃ n rest, s.pending = .select n :: rest ∧ t.devices.Perm s.devices) := by
  rcases step_next h with ⟨-, rfl⟩ | ⟨w, rest, c, -, -, -, heffect⟩ | ⟨image, save, init, rest, hp, hload⟩ |
    ⟨answer, rest, -, hflush⟩ | ⟨n, rest, d, hp, hd, rfl⟩
  · exact .inl ⟨rfl, rfl⟩
  · exact .inl ⟨heffect.keeps.1, heffect.keeps.2.1⟩
  · rcases exec_load_next hload with ⟨f, -, rfl⟩ | ⟨c, m, -, rfl⟩
    · exact .inl ⟨rfl, rfl⟩
    · exact .inr (.inl ⟨image, save, init, rest, c, m, hp, rfl⟩)
  · obtain ⟨c, -, -, rfl⟩ := exec_flush_next hflush
    obtain ⟨hconfig, hothers, -⟩ := teardown_keeps c answer (s.setPending rest)
    exact .inl ⟨hconfig, hothers⟩
  · exact .inr (.inr ⟨n, rest, hp, State.devices_turn (s := s.setPending rest) hd⟩)

end Sys2Proof.Machine

namespace Sys2Proof

open Sys2Proof.Machine

/-- Settles O53: what touches the clock is a capture, with at most two draws, or a register write, with at most one. -/
theorem onlyTheClockDrawsTime : Obligations.OnlyTheClockDrawsTime := by
  intro s t i h
  refine ⟨fun hlatch hsave => ?other, fun addr value hi => ?latch, fun addr value hi => ?save⟩
  case other =>
    by_cases hi : encode i = none
    · exact exec_host_draws hi h
    · rcases exec_bus_clock_cases hi h with ⟨-, -, ha, hd⟩ | ⟨a, rfl, -⟩ | ⟨c, a, v, r, rfl, -⟩
      · exact ⟨hd, ha⟩
      · exact absurd rfl (hlatch a 0x01)
      · exact absurd rfl (hsave a v)
  case latch =>
    obtain ⟨c, -, -, ⟨-, rfl⟩ | ⟨hvalue, hl, rfl⟩ | ⟨-, -, rfl⟩⟩ := exec_cWrLatch_next (hi ▸ h)
    · exact ⟨Nat.le_refl _, Nat.le_add_right _ 2, fun _ => ⟨rfl, rfl⟩⟩
    · obtain ⟨-, -, hle, hle'⟩ := calcRtcReg_frame s
      refine ⟨hle, hle', fun hnone => ?_⟩
      have hsame : calcRtcReg s = s := by
        rcases hnone with hne | hset | hz | hh
        · exact absurd hvalue hne
        · simp [hl] at hset
        · exact calcRtcReg_unset hz
        · exact calcRtcReg_halted hh
      rw [hsame]
      exact ⟨rfl, rfl⟩
    · exact ⟨Nat.le_refl _, Nat.le_add_right _ 2, fun _ => ⟨rfl, rfl⟩⟩
  case save =>
    rcases exec_bus_clock_cases (by simp [hi, encode]) h with ⟨-, -, ha, hd⟩ | ⟨a, hi', -⟩ |
      ⟨c, a, v, r, -, hen, hr, rfl⟩
    · exact ⟨hd.ge, by omega, fun _ => ⟨hd, ha⟩⟩
    · cases hi.symm.trans hi'
    · obtain ⟨hlo, hhi⟩ := bounds_of_rtcSelect (rtcSelect_of_saveTargetC hr)
      rcases calcRtcZero_cases (s.setRtc (s.rtc.set r v)) with ⟨-, hframe⟩ | ⟨z, hz, hframe⟩ <;> rw [hframe]
      · exact ⟨Nat.le_refl _, Nat.le_add_right _ 1, fun _ => ⟨rfl, rfl⟩⟩
      · refine ⟨Nat.le_add_right _ 1, Nat.le_refl _, fun hnone => ?_⟩
        rcases hnone with hdis | hlt | hgt | hunset
        · simp [hen] at hdis
        · omega
        · omega
        · simp [hunset] at hz

/-- Settles O54: LOAD puts its device before the others, a turn reorders them, and no step does more. -/
theorem configurationIsFixed : Obligations.ConfigurationIsFixed := by
  intro s t h
  have hunder : ∀ c, s.config = some c → ∀ own : Option Configuration,
      stepUnder c { s with config := own } = .next t := by
    intro c hc own
    rw [← h, stepUnder, ← hc]
  rcases step_devices h with ⟨hconfig, hothers⟩ | ⟨image, save, init, rest, c, m, hp, rfl⟩ | ⟨n, rest, hp, hperm⟩
  · refine ⟨fun _ _ => ⟨hconfig, hothers⟩, fun d hd => ?_, ⟨[], ?_, Nat.zero_le _, fun _ => rfl⟩, hunder⟩
    · exact List.mem_append_right _ (hothers ▸ hd)
    · rw [State.configurations_eq, State.configurations_eq, hconfig, hothers]
      exact List.Perm.refl _
  · obtain ⟨d, -, rfl, hdevices⟩ := State.devices_newDevice (s.setPending rest) c m
    refine ⟨fun hload => absurd hp (hload _ _ _ _), fun e he => ?_,
      ⟨[d.config], ?_, Nat.le_refl _, fun hload => absurd hp (hload _ _ _ _)⟩, hunder⟩
    · rw [hdevices]
      exact List.mem_cons_of_mem _ (List.mem_append_right _ he)
    · rw [State.configurations, hdevices]
      exact List.Perm.refl _
  · refine ⟨fun _ hturn => absurd hp (hturn _ _), fun d hd => ?_, ⟨[], ?_, Nat.zero_le _, fun _ => rfl⟩, hunder⟩
    · exact hperm.mem_iff.2 (List.mem_append_right _ hd)
    · exact hperm.map Device.config

/-- Settles O55: only a capture and a register write touch the registers, and a capture that draws nothing keeps
them. -/
theorem clockRegistersMoveOnlyOnCaptureOrWrite : Obligations.ClockRegistersMoveOnlyOnCaptureOrWrite := by
  intro s t h hmoved
  rcases step_rtc_cases h with hkept | hload | hturn | ⟨c, w, rest, hruns, hv, hp, hword⟩
  · exact absurd hkept hmoved
  · exact .inl hload
  · exact .inr (.inl hturn)
  · refine .inr (.inr ⟨c, w, rest, hruns, hv, hp, ?_⟩)
    rcases hword with ⟨hop, hwindow, hdata, hl, hrtc⟩ | ⟨hop, hen, r, hr, -⟩
    · have hdrawn : ¬(haltFlag s.rtc.flags = true ∨ s.rtcZero = none) := fun hstill =>
        hmoved (hrtc.trans (congrArg State.rtc (calcRtcReg_unchanged hstill)))
      obtain ⟨hrunning, hclocked⟩ := not_or.1 hdrawn
      exact .inl ⟨hop, (ctrlWindow_eq _).symm.trans hwindow, hdata, hl, hclocked, Bool.eq_false_of_not_eq_true hrunning⟩
    · exact .inr ⟨hop, hen, bounds_of_rtcSelect hr⟩

/-- Settles O56: a capture keeps CARRY, and a register write clears it only in the flags register. -/
theorem onlyAWriteOrLoadClearsTheCarry : Obligations.OnlyAWriteOrLoadClearsTheCarry := by
  intro s t h hset hclear
  rcases step_rtc_cases h with hkept | hload | hturn | ⟨c, w, rest, hruns, hv, hp, hword⟩
  · rw [hkept, hset] at hclear
    cases hclear
  · exact .inl hload
  · exact .inr (.inl hturn)
  · rcases hword with ⟨-, -, -, -, hrtc⟩ | ⟨hop, hen, r, hr, hrtc⟩
    · rw [hrtc, calcRtcReg_keeps_carry hset] at hclear
      cases hclear
    · obtain rfl : r = .flags := by
        by_contra hne
        rw [hrtc, RtcRegs.set_flags_other _ _ hne, hset] at hclear
        cases hclear
      rw [hrtc] at hclear
      exact .inr (.inr ⟨c, w, rest, hruns, hv, hp, hop, hen, eq_of_rtcSelect_flags hr, hclear⟩)

end Sys2Proof
